-- ==== Sys2Proof/Word.lean ====
section
/-! DEFINITION. The block's values: bytes and byte strings (00_scope.md rule R8). -/

namespace Sys2Proof

/-- R8: a byte is an unsigned integer 0..255. -/
abbrev Byte := BitVec 8

/-- R8: a byte string is a finite sequence of bytes, indexed from 0. -/
abbrev Bytes := List Byte

end Sys2Proof
end

