-- ==== Sys2Proof/Machine/Bytes.lean ====
section
/-! DEFINITION. The notation of 00_scope.md rules R8 and R9: slices, sums, little-endian fields, padding lengths. -/

namespace Sys2Proof.Machine

/-- R8: `s[a:b]`, the bytes a up to but not including b, with the bounds clamped to the string. -/
def slice (s : Bytes) (a b : Nat) : Bytes :=
  (s.take b).drop a

/-- R9: `sum(s)`, the exact integer sum of the bytes. -/
def byteSum (s : Bytes) : Nat :=
  (s.map BitVec.toNat).sum

/-- The byte of weight 2^0 of an integer: `n & 0xFF`. -/
def lowByte (n : Nat) : Byte :=
  BitVec.ofNat 8 n

/-- R9, R41: `[n & 0xFF, n >> 8]`, a 16-bit little-endian field. -/
def le16 (n : Nat) : Bytes :=
  [lowByte n, lowByte (n >>> 8)]

/-- R30, R191: a 4-byte little-endian field. -/
def le32 (n : Nat) : Bytes :=
  [lowByte n, lowByte (n >>> 8), lowByte (n >>> 16), lowByte (n >>> 24)]

/-- R9: `s[o] | (s[o+1] << 8)`, read from the two bytes. -/
def u16 (lo hi : Byte) : Nat :=
  lo.toNat ||| (hi.toNat <<< 8)

/-- R9: `pad16(n) = 16 * ceil(n / 16)`. -/
def pad16 (n : Nat) : Nat :=
  16 * ((n + 15) / 16)

/-- The `count` bytes of a number, least significant first (R41). -/
def bytesOfNat : Nat → Nat → Bytes
  | 0, _ => []
  | count + 1, n => lowByte n :: bytesOfNat count (n >>> 8)

end Sys2Proof.Machine
end

