-- ==== Sys2Proof/Config.lean ====
section
/-! DEFINITION. What an instance of the block fixes at instantiation: the OPEN parameters of 00_scope.md rule R7 and
92_eei_decisions.md. Configuration is not state (R22): no step writes it, and State carries it only because the host's form of a
step takes the state alone (log 1). The fixed parameters of R7, the defaults and the well-formedness of a configuration are
in Machine/Params.lean. -/

namespace Sys2Proof

/-- R7 HDR_LAYOUT, D13: the offset of each IP150 header field. The magic byte is at 0 whatever the layout (source §3). -/
structure HdrLayout where
  /-- Offset of the low byte of the 16-bit little-endian payload length; the high byte follows it. -/
  lengthAt : Nat
  messageTypeAt : Nat
  flagsAt : Nat
  commandAt : Nat
  subCommandAt : Nat
deriving DecidableEq, Repr

/-- One class of frames whose payload is in the clear: a field that is `none` admits every byte. -/
structure ClearPattern where
  messageType : Option Byte
  command : Option Byte
  subCommand : Option Byte
deriving DecidableEq, Repr

/-- R7 CLEAR, R160, D16: the parameter CLEAR(mt, cmd, sub) as data. Every predicate on three bytes is a finite list of
patterns (log 9). -/
inductive ClearRule where
  /-- The default of R160: `cmd == CFG.CMD_CONNECT`. -/
  | connectFrames
  /-- A frame is in the clear iff it matches one of the patterns. -/
  | anyOf (patterns : List ClearPattern)
deriving DecidableEq, Repr

/-- R7, R22: the parameters that are OPEN, one field each. -/
structure Config where
  /-- CFG_PW (D32): the configured password. -/
  cfgPw : Bytes
  /-- BUF_CAP (D7): the receive buffer's capacity, `none` for unbounded. -/
  bufCap : Option Nat
  /-- MT_IP_RESPONSE (R74, D14). -/
  mtIpResponse : Byte
  /-- MT_SERIAL_PT_RESPONSE (R74, D14). -/
  mtSerialPtResponse : Byte
  /-- MT_IP_REQUEST (R74, D14). -/
  mtIpRequest : Byte
  /-- MT_SERIAL_PT_REQUEST (R74, D14). -/
  mtSerialPtRequest : Byte
  /-- CMD_PASSTHROUGH (R75, D15): used only by the assembler's pseudo-instructions (R71). -/
  cmdPassthrough : Byte
  /-- CMD_CONNECT (R75, D15). -/
  cmdConnect : Byte
  /-- CMD_MULTICOMMAND (R75, D15). -/
  cmdMulticommand : Byte
  /-- CLEAR (R160, D16). -/
  clear : ClearRule
  /-- FLAGS_CONNECT (R164, D21): the flags byte of the connect request. -/
  flagsConnect : Byte
  /-- HDR_FILL (R73, D13): the filler of header bytes 7 to 15 on build, and of a byte another layout vacates (log 20). -/
  hdrFill : Byte
  /-- HDR_LAYOUT (R73, D13). -/
  layout : HdrLayout
deriving DecidableEq, Repr

end Sys2Proof
end

