-- ==== Sys2Proof/Machine/Params.lean ====
section
/-! DEFINITION. The fixed parameters of 00_scope.md rule R7, the defaults of the OPEN ones, and which configurations are
within the spec (70_reset_and_hazards.md rule R232). The literals are the spec's, taken as given (R7, I14; log 13). -/

namespace Sys2Proof.Machine

/-- MIN_FRAME (bytes). -/
abbrev minFrame : Nat := 4

/-- LEGACY_LEN (bytes). -/
abbrev legacyLen : Nat := 37

/-- WAIT_LO: the least candidate length that waits. -/
abbrev waitLo : Nat := 37

/-- WAIT_HI: the greatest candidate length that waits. -/
abbrev waitHi : Nat := 71

/-- MARKER_NIBBLES: the high nibbles of byte 0 that force candidate length 0. -/
abbrev markerNibbles : List Byte := [0x0, 0xF, 0xC]

/-- PAD: the cipher padding byte. -/
abbrev padByte : Byte := 0xEE

/-- BLOCK: the cipher block size (bytes). -/
abbrev blockLen : Nat := 16

/-- KEY_LEN: the bytes of cipher key after padding. -/
abbrev keyLen : Nat := 32

/-- ROUNDS. -/
abbrev rounds : Nat := 14

/-- The words of the key material: KEY_MATERIAL_LEN = 240 bytes. -/
abbrev scheduleWords : Nat := 60

/-- HDR_LEN: the IP150 header bytes. -/
abbrev hdrLen : Nat := 16

/-- MAGIC: header byte 0. -/
abbrev magic : Byte := 0xAA

/-- SESSION_KEY_LEN (bytes). -/
abbrev sessionKeyLen : Nat := 16

/-- KEY_SLICE: payload bytes [1, 17). -/
abbrev keySliceLo : Nat := 1

/-- KEY_SLICE: payload bytes [1, 17). -/
abbrev keySliceHi : Nat := 17

/-- AUTH_MASK. -/
abbrev authMask : Byte := 0xF0

/-- AUTH_VAL. -/
abbrev authVal : Byte := 0x10

/-- MAX_FIELD: the largest operand or result field (bytes). -/
abbrev maxField : Nat := 65535

/-- R7 HDR_LAYOUT: the default offsets (a recollection the spec marks unverified, G6). -/
def defaultLayout : HdrLayout :=
  { lengthAt := 1, messageTypeAt := 3, flagsAt := 4, commandAt := 5, subCommandAt := 6 }

/-- R7: the default of every OPEN parameter. CFG_PW has no default in R7; "test123456" is the value 95_test_vectors.md
starts from (DESIGN CHOICE, log 2). The codes are recollections the spec marks unverified (PRESUMED, G6, G7; log 2). -/
def defaultConfig : Config :=
  { cfgPw := [0x74, 0x65, 0x73, 0x74, 0x31, 0x32, 0x33, 0x34, 0x35, 0x36]
    bufCap := none
    mtIpResponse := 0x01
    mtSerialPtResponse := 0x02
    mtIpRequest := 0x03
    mtSerialPtRequest := 0x04
    cmdPassthrough := 0x00
    cmdConnect := 0xF0
    cmdMulticommand := 0xF8
    clear := .connectFrames
    flagsConnect := 0x00
    hdrFill := 0xEE
    layout := defaultLayout }

/-- R74: the four message_type codes. -/
def messageTypes (cfg : Config) : List Byte :=
  [cfg.mtIpResponse, cfg.mtSerialPtResponse, cfg.mtIpRequest, cfg.mtSerialPtRequest]

/-- The header bytes the fields of a layout occupy. -/
def layoutOffsets (l : HdrLayout) : List Nat :=
  [l.lengthAt, l.lengthAt + 1, l.messageTypeAt, l.flagsAt, l.commandAt, l.subCommandAt]

/-- A layout places the fields in distinct bytes of the 16-byte header, after the magic byte (DEDUCED, log 10). -/
def layoutWf (l : HdrLayout) : Bool :=
  (layoutOffsets l).all (fun o => decide (1 ≤ o) && decide (o < hdrLen)) && decide (layoutOffsets l).Nodup

/-- R232: CFG_PW is 0 to 32 bytes, the four message types are distinct, CMD_CONNECT and CMD_MULTICOMMAND differ; and the
header layout is one. An instance configured otherwise is outside the spec. -/
def configWf (cfg : Config) : Bool :=
  decide (cfg.cfgPw.length ≤ keyLen) && decide (messageTypes cfg).Nodup &&
    decide (cfg.cmdConnect ≠ cfg.cmdMulticommand) && layoutWf cfg.layout

end Sys2Proof.Machine
end

