-- ==== Sys2Proof/Machine/Operands.lean ====
section
/-! DEFINITION. Operand assembly (30_encoding.md rule R65): every operand is a byte string taken verbatim; the one structured operand
is IPWRAP's `hdr`. Also the domain of a password (43_cipher.md rule R131). -/

namespace Sys2Proof.Machine

/-- R65, R73: the four header bytes a host gives to IPWRAP and gets from IPUNWRAP. -/
structure WireHeader where
  messageType : Byte
  flags : Byte
  command : Byte
  subCommand : Byte
deriving DecidableEq, Repr

/-- R65: IPWRAP's `hdr` must be exactly 4 bytes, in this order. -/
def headerOperand : Bytes → Option WireHeader
  | [mt, fl, cmd, sub] => some ⟨mt, fl, cmd, sub⟩
  | _ => none

/-- R165: `[mt, fl, cmd, sub]`, IPUNWRAP's second result field. -/
def WireHeader.bytes (h : WireHeader) : Bytes :=
  [h.messageType, h.flags, h.command, h.subCommand]

/-- R131: a password longer than 32 bytes has no key. -/
def hasKey (password : Bytes) : Bool :=
  decide (password.length ≤ keyLen)

end Sys2Proof.Machine
end

