-- ==== Sys2Proof/Syntax.lean ====
section
/-! DEFINITION. The commands of the block: one constructor per row of the opcode map (30_encoding.md rule R63).
Operands are byte strings taken verbatim (R65). -/

namespace Sys2Proof

/-- The 14 commands of R63, in the table's order, each with its operands in order. -/
inductive Instr where
  /-- R190: do nothing. -/
  | nop
  /-- R101: verify the checksum of `frame`. -/
  | ckv (frame : Bytes)
  /-- R102: compute the trailing checksum byte for `body`. -/
  | ckg (body : Bytes)
  /-- R111: append arriving bytes to the receive buffer and extract frames. -/
  | feed (arrived : Bytes)
  /-- R118: discard the receive buffer. -/
  | flush
  /-- R137: return the key material of `password`. -/
  | ksched (password : Bytes)
  /-- R146: encrypt a message. -/
  | enc (plaintext password : Bytes)
  /-- R147: decrypt a message. -/
  | dec (ciphertext password : Bytes)
  /-- R163: build one IP150 wire frame. -/
  | ipwrap (hdr payload : Bytes)
  /-- R165: parse the IP150 wire frame at the front of `wire`. -/
  | ipunwrap (wire : Bytes)
  /-- R164: start the connect handshake. -/
  | hsconn
  /-- R171: split a multicommand payload. -/
  | msplit (payload : Bytes)
  /-- R191: read the status view. -/
  | stat
  /-- R192: disconnect. -/
  | disc
deriving DecidableEq, Repr

end Sys2Proof
end

