-- ==== Sys2Proof/WellFormed.lean ====
section
/-! DEFINITION. Which commands a command packet can carry: every operand is 0..65535 bytes (30_encoding.md rule R60). -/

namespace Sys2Proof

/-- R60: a command's operands, in packet order. -/
def Instr.operands : Instr → List Bytes
  | .nop => []
  | .ckv frame => [frame]
  | .ckg body => [body]
  | .feed arrived => [arrived]
  | .flush => []
  | .ksched password => [password]
  | .enc plaintext password => [plaintext, password]
  | .dec ciphertext password => [ciphertext, password]
  | .ipwrap hdr payload => [hdr, payload]
  | .ipunwrap wire => [wire]
  | .hsconn => []
  | .msplit payload => [payload]
  | .stat => []
  | .disc => []

/-- R60: a byte string a 16-bit length can describe. -/
def fieldFits (b : Bytes) : Bool :=
  decide (b.length ≤ 65535)

/-- R60: every operand is 0..65535 bytes long. No rule limits an operand's contents as an encoding: a value outside a
command's domain is answered by a status (R66). -/
def Instr.wf (i : Instr) : Bool :=
  i.operands.all fieldFits

end Sys2Proof
end

