-- ==== Sys2Proof/Decode.lean ====
section
/-! DEFINITION. The opcode map (30_encoding.md rule R63), the decoder of command packets (R61, total on every byte string),
the encoder (R60), and the opcode table's words as packets. -/

namespace Sys2Proof

open Sys2Proof.Machine

/-- The names of the opcode map R63. -/
inductive Opcode where
  | nop | ckv | ckg | feed | flush | ksched | enc | dec | ipwrap | ipunwrap | hsconn | msplit | stat | disc
deriving DecidableEq, Repr

/-- R63: the opcode byte. -/
def Opcode.code : Opcode → Byte
  | .nop => 0x00
  | .ckv => 0x01
  | .ckg => 0x02
  | .feed => 0x10
  | .flush => 0x11
  | .ksched => 0x20
  | .enc => 0x21
  | .dec => 0x22
  | .ipwrap => 0x30
  | .ipunwrap => 0x31
  | .hsconn => 0x32
  | .msplit => 0x33
  | .stat => 0x3E
  | .disc => 0x3F

/-- R63: the operand count n. -/
def Opcode.operandCount : Opcode → Nat
  | .nop => 0
  | .ckv => 1
  | .ckg => 1
  | .feed => 1
  | .flush => 0
  | .ksched => 1
  | .enc => 2
  | .dec => 2
  | .ipwrap => 2
  | .ipunwrap => 1
  | .hsconn => 0
  | .msplit => 1
  | .stat => 0
  | .disc => 0

/-- The rows of R63 in order. -/
def Opcode.all : List Opcode :=
  [.nop, .ckv, .ckg, .feed, .flush, .ksched, .enc, .dec, .ipwrap, .ipunwrap, .hsconn, .msplit, .stat, .disc]

/-- R63, R66: the row whose opcode byte is `b`, all 8 bits compared; none for the 242 illegal values. -/
def Opcode.ofByte (b : Byte) : Option Opcode :=
  Opcode.all.find? fun o => o.code == b

/-- R61: why a packet does not decode. `illegalOpcode` is answered ILLEGAL_OPCODE, the others BAD_PACKET; none changes
any state. -/
inductive DecodeError where
  /-- R61: `len(P) == 0`, no opcode. -/
  | emptyPacket
  /-- R61, R66: byte 0 is not in the opcode map. -/
  | illegalOpcode
  /-- R61: `i + 2 > len(P)`. -/
  | truncatedLength
  /-- R61: `i + L > len(P)`. -/
  | truncatedOperand
  /-- R61: `i != len(P)` after the last operand. -/
  | trailingBytes
deriving DecidableEq, Repr

/-- R61: the loop over the operands and the test for trailing bytes, on the packet from position i on. -/
def takeOperands : Nat → Bytes → Except DecodeError (List Bytes)
  | 0, [] => .ok []
  | 0, _ :: _ => .error .trailingBytes
  | n + 1, lo :: hi :: rest =>
    if rest.length < u16 lo hi then .error .truncatedOperand
    else
      match takeOperands n (rest.drop (u16 lo hi)) with
      | .ok ops => .ok (rest.take (u16 lo hi) :: ops)
      | .error e => .error e
  | _ + 1, _ => .error .truncatedLength

/-- R63: the command of an opcode and its operands `op[0]`, `op[1]`. -/
def Opcode.build (o : Opcode) (op : List Bytes) : Instr :=
  match o with
  | .nop => .nop
  | .ckv => .ckv (op.getD 0 [])
  | .ckg => .ckg (op.getD 0 [])
  | .feed => .feed (op.getD 0 [])
  | .flush => .flush
  | .ksched => .ksched (op.getD 0 [])
  | .enc => .enc (op.getD 0 []) (op.getD 1 [])
  | .dec => .dec (op.getD 0 []) (op.getD 1 [])
  | .ipwrap => .ipwrap (op.getD 0 []) (op.getD 1 [])
  | .ipunwrap => .ipunwrap (op.getD 0 [])
  | .hsconn => .hsconn
  | .msplit => .msplit (op.getD 0 [])
  | .stat => .stat
  | .disc => .disc

/-- R61: decoding a command packet, its checks in the rule's order. -/
def decode : Bytes → Except DecodeError Instr
  | [] => .error .emptyPacket
  | opc :: rest =>
    match Opcode.ofByte opc with
    | none => .error .illegalOpcode
    | some o =>
      match takeOperands o.operandCount rest with
      | .ok ops => .ok (o.build ops)
      | .error e => .error e

/-- R63: the row of a command. -/
def Instr.opcode : Instr → Opcode
  | .nop => .nop
  | .ckv _ => .ckv
  | .ckg _ => .ckg
  | .feed _ => .feed
  | .flush => .flush
  | .ksched _ => .ksched
  | .enc _ _ => .enc
  | .dec _ _ => .dec
  | .ipwrap _ _ => .ipwrap
  | .ipunwrap _ => .ipunwrap
  | .hsconn => .hsconn
  | .msplit _ => .msplit
  | .stat => .stat
  | .disc => .disc

/-- R60, R62: a byte string with its 2-byte little-endian length before it. -/
def lengthPrefixed (b : Bytes) : Bytes :=
  le16 b.length ++ b

/-- R60: the command packet of a command. -/
def encode (i : Instr) : Bytes :=
  i.opcode.code :: i.operands.flatMap lengthPrefixed

/-- The length of the shortest packet that starts with these bytes: the opcode, and an operand length word of zeros for
each operand of R63 (the opcode table gives the operands no bits). -/
def shortestPacketLen : Bytes → Nat
  | [] => 0
  | opc :: _ =>
    match Opcode.ofByte opc with
    | none => 1
    | some o => 1 + 2 * o.operandCount

/-- The packet whose first `nbits` bits are `w`, byte 0 in bits 7..0, every later byte of the shortest packet zero. -/
def tablePacket (nbits w : Nat) : Bytes :=
  let given := bytesOfNat (nbits / 8) w
  given ++ List.replicate (shortestPacketLen given - given.length) 0x00

/-- The command the decoder reads from the opcode table's word `w` of `nbits` bits, its operands empty. -/
def decodeTableWord (nbits w : Nat) : Option Instr :=
  match decode (tablePacket nbits w) with
  | .ok i => some i
  | .error _ => none

end Sys2Proof
end

