-- ==== Sys2Proof/Machine/State.lean ====
section
/-! DEFINITION. The block's state (10_state.md rule R20: `buf`, `hs`, `sec`, nothing else), beside it the configuration (R22) and the
two ports of the transaction interface (R5); why a step can stop; and the state after reset (R230). -/

namespace Sys2Proof.Machine

/-- R25: the connect-handshake states, with the added terminal state `failed` (D20). -/
inductive HandshakeState where
  | disconnected
  | awaitingConnectAck
  /-- Transient: the command that enters it leaves it for `established` in the same step (R25). -/
  | sessionKeyReceived
  | established
  /-- Left only by DISC or reset (R25, R207). -/
  | failed
deriving DecidableEq, Repr

/-- What the outside drives next (log 3, log 4, log 5). -/
inductive Input where
  /-- R60: one command packet, delivered whole on the command port. -/
  | command (packet : Bytes)
  /-- R230: the reset input, applied between commands. -/
  | resetInput
  /-- R47, I9: two commands issued concurrently from two host contexts. -/
  | overlapping (first second : Bytes)
deriving DecidableEq, Repr

/-- R20, R22, R60, R62. -/
structure State where
  /-- R22: the configuration of this instance; no step writes it. -/
  cfg : Config
  /-- R20, R24 `S.B`: the receive buffer. -/
  buf : Bytes
  /-- R20, R25 `S.HS`: the handshake state. -/
  hs : HandshakeState
  /-- R20, R23 `S.SEC`: the active session secret. -/
  sec : Bytes
  /-- R46, R60, R230: what the host delivers, oldest first; the block reads its head. -/
  port : List Input
  /-- R62: the response packets returned, oldest first; no command reads them. -/
  responses : List Bytes
deriving DecidableEq, Repr

/-- R200, 93 'Faults': the block never traps and no behaviour of it is a fault, so there is no fault reason. -/
inductive Fault where
deriving DecidableEq, Repr

/-- Why a step has no next state. -/
inductive Refusal where
  /-- Raised by exec's arm of an instruction that has no meaning yet. Safe: nothing is claimed of it. -/
  | notModelled (mnemonic : String)
  /-- Raised by FEED when a finite BUF_CAP would be exceeded: the spec gives it no step (R121, I3). Safe. -/
  | bufferCapacity
  /-- Raised by the step when two commands overlap: the spec gives such a run no step (R47, I9). Safe. -/
  | overlappingCommands
  /-- Raised by the step when the configuration is outside the spec: it refuses the instance (R232, I4). Safe. -/
  | configOutsideSpec
deriving DecidableEq, Repr

/-- R230: the state after reset of an instance with configuration `cfg`, nothing delivered and nothing returned yet. -/
def State.resetWith (cfg : Config) : State :=
  { cfg := cfg
    buf := []
    hs := .disconnected
    sec := cfg.cfgPw
    port := []
    responses := [] }

/-- R230: the state after reset of an instance with the default configuration (log 2). -/
def State.reset : State :=
  State.resetWith defaultConfig

end Sys2Proof.Machine
end

