-- ==== Sys2Proof/Machine/Flags.lean ====
section
/-! DEFINITION. How an outcome is reported. The block has no flags (10_state.md rule R29): each outcome is the status byte of the
response (30_encoding.md rule R64), CKV's boolean field, and the result fields (R62). -/

namespace Sys2Proof.Machine

/-- R64: the status codes. -/
inductive Status where
  | ok
  | incomplete
  | authError
  | decodeError
  | badOperand
  | stateError
  | sessionFailed
  | badPacket
  | illegalOpcode
deriving DecidableEq, Repr

/-- R64: byte 0 of a response. -/
def Status.code : Status → Byte
  | .ok => 0x00
  | .incomplete => 0x01
  | .authError => 0x02
  | .decodeError => 0x03
  | .badOperand => 0x04
  | .stateError => 0x05
  | .sessionFailed => 0x06
  | .badPacket => 0x0E
  | .illegalOpcode => 0x0F

/-- The rows of R64 in order. -/
def Status.all : List Status :=
  [.ok, .incomplete, .authError, .decodeError, .badOperand, .stateError, .sessionFailed, .badPacket, .illegalOpcode]

/-- R64: the status of a code; the codes 0x07 to 0x0D and 0x10 to 0xFF are none. -/
def Status.ofByte (b : Byte) : Option Status :=
  Status.all.find? fun st => st.code == b

/-- R61: the status a packet that does not decode is answered with. -/
def decodeErrorStatus : DecodeError → Status
  | .emptyPacket => .badPacket
  | .illegalOpcode => .illegalOpcode
  | .truncatedLength => .badPacket
  | .truncatedOperand => .badPacket
  | .trailingBytes => .badPacket

/-- R62: a response, its status and its result fields in order. -/
structure Response where
  status : Status
  fields : List Bytes
deriving DecidableEq, Repr

/-- R62: the response packet: the status code, then each field with its 2-byte little-endian length. -/
def Response.encode (r : Response) : Bytes :=
  r.status.code :: r.fields.flatMap lengthPrefixed

/-- R62: reading the result fields of a response packet back; `fuel` bounds their number. -/
def parseFields : Nat → Bytes → Option (List Bytes)
  | _, [] => some []
  | fuel + 1, lo :: hi :: rest =>
    if rest.length < u16 lo hi then none
    else (parseFields fuel (rest.drop (u16 lo hi))).map (rest.take (u16 lo hi) :: ·)
  | _, _ => none

/-- R62, R64: reading a response packet back, as its host does. -/
def parseResponse : Bytes → Option Response
  | [] => none
  | code :: rest =>
    match Status.ofByte code, parseFields rest.length rest with
    | some st, some fields => some ⟨st, fields⟩
    | _, _ => none

/-- R101: CKV's result byte, 0x01 for valid and 0x00 for invalid. -/
def boolByte (b : Bool) : Byte :=
  if b then 0x01 else 0x00

/-- R26: the byte that encodes the handshake state. -/
def handshakeCode : HandshakeState → Byte
  | .disconnected => 0x00
  | .awaitingConnectAck => 0x01
  | .sessionKeyReceived => 0x02
  | .established => 0x03
  | .failed => 0x04

end Sys2Proof.Machine
end

