-- ==== Sys2Proof/Machine/Ops.lean ====
section
/-! DEFINITION. The named operations on the state: writing an element, taking the port's head, returning a response, and the
reset of the session. The block takes no exception (60_exceptions.md rules R200, R206, R207), so there is no trap entry and no return: an
error is a reply, and its one state effect is `failSession` (R203). -/

namespace Sys2Proof.Machine

/-- `S.B <- b`. -/
def State.setBuf (s : State) (b : Bytes) : State :=
  { s with buf := b }

/-- `S.HS <- h`. -/
def State.setHs (s : State) (h : HandshakeState) : State :=
  { s with hs := h }

/-- `S.SEC <- k`. -/
def State.setSec (s : State) (k : Bytes) : State :=
  { s with sec := k }

/-- What is left on the port once the head is taken (R46). -/
def State.setPort (s : State) (rest : List Input) : State :=
  { s with port := rest }

/-- R62: the response port receives one response packet. -/
def State.respond (s : State) (r : Response) : State :=
  { s with responses := s.responses ++ [r.encode] }

/-- R192, R230, R231: the three elements at their reset values; nothing else is affected. -/
def State.disconnect (s : State) : State :=
  { s with buf := [], hs := .disconnected, sec := s.cfg.cfgPw }

/-- R203: `S.HS <- Failed`, the one state effect of an error. -/
def State.failSession (s : State) : State :=
  s.setHs .failed

/-- R168: `S.SEC <- k`, `S.HS <- SessionKeyReceived`, and then at once `S.HS <- Established`, in one step. -/
def State.installKey (s : State) (k : Bytes) : State :=
  ((s.setSec k).setHs .sessionKeyReceived).setHs .established

/-- R121: a finite BUF_CAP would be exceeded by `n` more bytes. -/
def State.overCapacity (s : State) (n : Nat) : Bool :=
  match s.cfg.bufCap with
  | none => false
  | some cap => decide (cap < s.buf.length + n)

/-- R10: a command ends: `respond st`, with the fields emitted. -/
def reply (s : State) (st : Status) (fields : List Bytes) : Host.Outcome State Fault Refusal :=
  .next (s.respond ⟨st, fields⟩)

/-- R61: a packet that does not decode is answered by its status, with no fields and no state change. -/
def replyUndecoded (s : State) (e : DecodeError) : Host.Outcome State Fault Refusal :=
  reply s (decodeErrorStatus e) []

end Sys2Proof.Machine
end

