-- ==== Sys2Proof/Machine/Cipher.lean ====
section
/-! DEFINITION. The stream_cipher_engine unit: KSCHED, ENC and DEC (43_cipher.md rules R130 to R147): AES-256 with a row-major
state, the key padded with 0xEE to 32 bytes, ECB order. The algorithm is the spec's own supply from general knowledge, checked by it
on the source's vector (R150; log 14). -/

namespace Sys2Proof.Machine

/-- Four bytes: a word of the key schedule (R136), or a row or a column of the state (R138, R142). -/
structure Quad where
  b0 : Byte
  b1 : Byte
  b2 : Byte
  b3 : Byte
deriving DecidableEq, Repr

/-- R138: the 4×4 byte matrix `s[r][c]`, its four rows. -/
structure Matrix where
  r0 : Quad
  r1 : Quad
  r2 : Quad
  r3 : Quad
deriving DecidableEq, Repr

/-- R132: multiplication by x in GF(2^8), reduced by 0x11B. -/
def xtime (a : Byte) : Byte :=
  (a <<< 1) ^^^ (if a &&& 0x80 = 0 then 0x00 else 0x1B)

/-- R132: the XOR of `xtime^i(a)` over the lowest `bits` bits i set in b. -/
def gmulBits : Nat → Byte → Nat → Byte
  | 0, _, _ => 0x00
  | bits + 1, a, b => (if b % 2 = 1 then a else 0x00) ^^^ gmulBits bits (xtime a) (b / 2)

/-- R132: `gmul(a, b)`, the XOR of `xtime^i(a)` over every bit i set in b; R142 writes it `gmul(k, a)` with the
coefficient first, and the product is symmetric. -/
def gmul (a b : Byte) : Byte :=
  gmulBits 8 a b.toNat

/-- R133: the table, rows by the high nibble of a and columns by the low nibble. -/
def sboxRows : List (List Byte) :=
  [[0x63, 0x7c, 0x77, 0x7b, 0xf2, 0x6b, 0x6f, 0xc5, 0x30, 0x01, 0x67, 0x2b, 0xfe, 0xd7, 0xab, 0x76],
   [0xca, 0x82, 0xc9, 0x7d, 0xfa, 0x59, 0x47, 0xf0, 0xad, 0xd4, 0xa2, 0xaf, 0x9c, 0xa4, 0x72, 0xc0],
   [0xb7, 0xfd, 0x93, 0x26, 0x36, 0x3f, 0xf7, 0xcc, 0x34, 0xa5, 0xe5, 0xf1, 0x71, 0xd8, 0x31, 0x15],
   [0x04, 0xc7, 0x23, 0xc3, 0x18, 0x96, 0x05, 0x9a, 0x07, 0x12, 0x80, 0xe2, 0xeb, 0x27, 0xb2, 0x75],
   [0x09, 0x83, 0x2c, 0x1a, 0x1b, 0x6e, 0x5a, 0xa0, 0x52, 0x3b, 0xd6, 0xb3, 0x29, 0xe3, 0x2f, 0x84],
   [0x53, 0xd1, 0x00, 0xed, 0x20, 0xfc, 0xb1, 0x5b, 0x6a, 0xcb, 0xbe, 0x39, 0x4a, 0x4c, 0x58, 0xcf],
   [0xd0, 0xef, 0xaa, 0xfb, 0x43, 0x4d, 0x33, 0x85, 0x45, 0xf9, 0x02, 0x7f, 0x50, 0x3c, 0x9f, 0xa8],
   [0x51, 0xa3, 0x40, 0x8f, 0x92, 0x9d, 0x38, 0xf5, 0xbc, 0xb6, 0xda, 0x21, 0x10, 0xff, 0xf3, 0xd2],
   [0xcd, 0x0c, 0x13, 0xec, 0x5f, 0x97, 0x44, 0x17, 0xc4, 0xa7, 0x7e, 0x3d, 0x64, 0x5d, 0x19, 0x73],
   [0x60, 0x81, 0x4f, 0xdc, 0x22, 0x2a, 0x90, 0x88, 0x46, 0xee, 0xb8, 0x14, 0xde, 0x5e, 0x0b, 0xdb],
   [0xe0, 0x32, 0x3a, 0x0a, 0x49, 0x06, 0x24, 0x5c, 0xc2, 0xd3, 0xac, 0x62, 0x91, 0x95, 0xe4, 0x79],
   [0xe7, 0xc8, 0x37, 0x6d, 0x8d, 0xd5, 0x4e, 0xa9, 0x6c, 0x56, 0xf4, 0xea, 0x65, 0x7a, 0xae, 0x08],
   [0xba, 0x78, 0x25, 0x2e, 0x1c, 0xa6, 0xb4, 0xc6, 0xe8, 0xdd, 0x74, 0x1f, 0x4b, 0xbd, 0x8b, 0x8a],
   [0x70, 0x3e, 0xb5, 0x66, 0x48, 0x03, 0xf6, 0x0e, 0x61, 0x35, 0x57, 0xb9, 0x86, 0xc1, 0x1d, 0x9e],
   [0xe1, 0xf8, 0x98, 0x11, 0x69, 0xd9, 0x8e, 0x94, 0x9b, 0x1e, 0x87, 0xe9, 0xce, 0x55, 0x28, 0xdf],
   [0x8c, 0xa1, 0x89, 0x0d, 0xbf, 0xe6, 0x42, 0x68, 0x41, 0x99, 0x2d, 0x0f, 0xb0, 0x54, 0xbb, 0x16]]

/-- R134: the inverse table, laid out likewise. -/
def invSboxRows : List (List Byte) :=
  [[0x52, 0x09, 0x6a, 0xd5, 0x30, 0x36, 0xa5, 0x38, 0xbf, 0x40, 0xa3, 0x9e, 0x81, 0xf3, 0xd7, 0xfb],
   [0x7c, 0xe3, 0x39, 0x82, 0x9b, 0x2f, 0xff, 0x87, 0x34, 0x8e, 0x43, 0x44, 0xc4, 0xde, 0xe9, 0xcb],
   [0x54, 0x7b, 0x94, 0x32, 0xa6, 0xc2, 0x23, 0x3d, 0xee, 0x4c, 0x95, 0x0b, 0x42, 0xfa, 0xc3, 0x4e],
   [0x08, 0x2e, 0xa1, 0x66, 0x28, 0xd9, 0x24, 0xb2, 0x76, 0x5b, 0xa2, 0x49, 0x6d, 0x8b, 0xd1, 0x25],
   [0x72, 0xf8, 0xf6, 0x64, 0x86, 0x68, 0x98, 0x16, 0xd4, 0xa4, 0x5c, 0xcc, 0x5d, 0x65, 0xb6, 0x92],
   [0x6c, 0x70, 0x48, 0x50, 0xfd, 0xed, 0xb9, 0xda, 0x5e, 0x15, 0x46, 0x57, 0xa7, 0x8d, 0x9d, 0x84],
   [0x90, 0xd8, 0xab, 0x00, 0x8c, 0xbc, 0xd3, 0x0a, 0xf7, 0xe4, 0x58, 0x05, 0xb8, 0xb3, 0x45, 0x06],
   [0xd0, 0x2c, 0x1e, 0x8f, 0xca, 0x3f, 0x0f, 0x02, 0xc1, 0xaf, 0xbd, 0x03, 0x01, 0x13, 0x8a, 0x6b],
   [0x3a, 0x91, 0x11, 0x41, 0x4f, 0x67, 0xdc, 0xea, 0x97, 0xf2, 0xcf, 0xce, 0xf0, 0xb4, 0xe6, 0x73],
   [0x96, 0xac, 0x74, 0x22, 0xe7, 0xad, 0x35, 0x85, 0xe2, 0xf9, 0x37, 0xe8, 0x1c, 0x75, 0xdf, 0x6e],
   [0x47, 0xf1, 0x1a, 0x71, 0x1d, 0x29, 0xc5, 0x89, 0x6f, 0xb7, 0x62, 0x0e, 0xaa, 0x18, 0xbe, 0x1b],
   [0xfc, 0x56, 0x3e, 0x4b, 0xc6, 0xd2, 0x79, 0x20, 0x9a, 0xdb, 0xc0, 0xfe, 0x78, 0xcd, 0x5a, 0xf4],
   [0x1f, 0xdd, 0xa8, 0x33, 0x88, 0x07, 0xc7, 0x31, 0xb1, 0x12, 0x10, 0x59, 0x27, 0x80, 0xec, 0x5f],
   [0x60, 0x51, 0x7f, 0xa9, 0x19, 0xb5, 0x4a, 0x0d, 0x2d, 0xe5, 0x7a, 0x9f, 0x93, 0xc9, 0x9c, 0xef],
   [0xa0, 0xe0, 0x3b, 0x4d, 0xae, 0x2a, 0xf5, 0xb0, 0xc8, 0xeb, 0xbb, 0x3c, 0x83, 0x53, 0x99, 0x61],
   [0x17, 0x2b, 0x04, 0x7e, 0xba, 0x77, 0xd6, 0x26, 0xe1, 0x69, 0x14, 0x63, 0x55, 0x21, 0x0c, 0x7d]]

/-- The entry of a table at a byte: row by the high nibble, column by the low nibble. -/
def tableAt (rows : List (List Byte)) (a : Byte) : Byte :=
  (rows.getD (a >>> 4).toNat []).getD (a &&& 0x0F).toNat 0x00

/-- R133 SBOX. -/
def sbox (a : Byte) : Byte :=
  tableAt sboxRows a

/-- R134 INV_SBOX. -/
def invSbox (a : Byte) : Byte :=
  tableAt invSboxRows a

/-- R135: RCON[1] = 0x01 and RCON[j+1] = xtime(RCON[j]). The rule gives no RCON[0], and nothing reads it. -/
def rcon : Nat → Byte
  | 0 => 0x00
  | 1 => 0x01
  | j + 1 => xtime (rcon j)

/-- R136: `^` on words is bytewise. -/
def Quad.xor (x y : Quad) : Quad :=
  ⟨x.b0 ^^^ y.b0, x.b1 ^^^ y.b1, x.b2 ^^^ y.b2, x.b3 ^^^ y.b3⟩

/-- A byte function on each byte of a word. -/
def Quad.map (f : Byte → Byte) (x : Quad) : Quad :=
  ⟨f x.b0, f x.b1, f x.b2, f x.b3⟩

/-- R136 RotWord, R141: one position to the left. -/
def Quad.rotl (x : Quad) : Quad :=
  ⟨x.b1, x.b2, x.b3, x.b0⟩

/-- R141: one position to the right. -/
def Quad.rotr (x : Quad) : Quad :=
  ⟨x.b3, x.b0, x.b1, x.b2⟩

/-- The word's bytes in order. -/
def Quad.bytes (x : Quad) : Bytes :=
  [x.b0, x.b1, x.b2, x.b3]

/-- The four bytes of a string from offset o on. -/
def quadAt (x : Bytes) (o : Nat) : Quad :=
  ⟨x.getD o 0x00, x.getD (o + 1) 0x00, x.getD (o + 2) 0x00, x.getD (o + 3) 0x00⟩

/-- The word `w[i]` of a key schedule. -/
def wordAt (w : List Quad) (i : Nat) : Quad :=
  w.getD i ⟨0x00, 0x00, 0x00, 0x00⟩

/-- R131: `K(p) = p ++ [0xEE] * (32 - len(p))`. -/
def formKey (p : Bytes) : Bytes :=
  p ++ List.replicate (keyLen - p.length) padByte

/-- R136: the word t that is XORed into w[i], from w[i-1]. -/
def scheduleTerm (i : Nat) (prev : Quad) : Quad :=
  if i % 8 = 0 then (prev.rotl.map sbox).xor ⟨rcon (i / 8), 0x00, 0x00, 0x00⟩
  else if i % 8 = 4 then prev.map sbox
  else prev

/-- R136: `w[i] <- w[i-8] ^ t`, appended to `w[0..i-1]`. -/
def expandStep (w : List Quad) (i : Nat) : List Quad :=
  w ++ [(wordAt w (i - 8)).xor (scheduleTerm i (wordAt w (i - 1)))]

/-- R136: the 60 words of the key schedule of a 32-byte key. -/
def expand (k : Bytes) : List Quad :=
  (List.range' 8 (scheduleWords - 8)).foldl expandStep ((List.range 8).map fun i => quadAt k (4 * i))

/-- R131, R136: the key schedule of a password. -/
def keySchedule (password : Bytes) : List Quad :=
  expand (formKey password)

/-- R138: a block loaded row by row. -/
def load (x : Bytes) : Matrix :=
  ⟨quadAt x 0, quadAt x 4, quadAt x 8, quadAt x 12⟩

/-- R138: the state stored row by row. -/
def store (m : Matrix) : Bytes :=
  m.r0.bytes ++ m.r1.bytes ++ m.r2.bytes ++ m.r3.bytes

/-- The matrix whose columns are the four words. -/
def ofColumns (c0 c1 c2 c3 : Quad) : Matrix :=
  ⟨⟨c0.b0, c1.b0, c2.b0, c3.b0⟩, ⟨c0.b1, c1.b1, c2.b1, c3.b1⟩, ⟨c0.b2, c1.b2, c2.b2, c3.b2⟩, ⟨c0.b3, c1.b3, c2.b3, c3.b3⟩⟩

/-- Bytewise XOR of two matrices. -/
def Matrix.xor (x y : Matrix) : Matrix :=
  ⟨x.r0.xor y.r0, x.r1.xor y.r1, x.r2.xor y.r2, x.r3.xor y.r3⟩

/-- A byte function on each byte of the state. -/
def Matrix.map (f : Byte → Byte) (m : Matrix) : Matrix :=
  ⟨m.r0.map f, m.r1.map f, m.r2.map f, m.r3.map f⟩

/-- A function on each column `(s[0][c], s[1][c], s[2][c], s[3][c])`. -/
def Matrix.mapColumns (f : Quad → Quad) (m : Matrix) : Matrix :=
  ofColumns (f ⟨m.r0.b0, m.r1.b0, m.r2.b0, m.r3.b0⟩) (f ⟨m.r0.b1, m.r1.b1, m.r2.b1, m.r3.b1⟩)
    (f ⟨m.r0.b2, m.r1.b2, m.r2.b2, m.r3.b2⟩) (f ⟨m.r0.b3, m.r1.b3, m.r2.b3, m.r3.b3⟩)

/-- R139 AddRoundKey(n): word 4n + c is XORed into column c. -/
def addRoundKey (w : List Quad) (n : Nat) (m : Matrix) : Matrix :=
  m.xor (ofColumns (wordAt w (4 * n)) (wordAt w (4 * n + 1)) (wordAt w (4 * n + 2)) (wordAt w (4 * n + 3)))

/-- R140 SubBytes. -/
def subBytes (m : Matrix) : Matrix :=
  m.map sbox

/-- R140 InvSubBytes. -/
def invSubBytes (m : Matrix) : Matrix :=
  m.map invSbox

/-- R141 ShiftRows: row r rotated left by r positions. -/
def shiftRows (m : Matrix) : Matrix :=
  ⟨m.r0, m.r1.rotl, m.r2.rotl.rotl, m.r3.rotl.rotl.rotl⟩

/-- R141 InvShiftRows: row r rotated right by r positions. -/
def invShiftRows (m : Matrix) : Matrix :=
  ⟨m.r0, m.r1.rotr, m.r2.rotr.rotr, m.r3.rotr.rotr.rotr⟩

/-- R142: one column of MixColumns. -/
def mixColumn (a : Quad) : Quad :=
  ⟨gmul 0x02 a.b0 ^^^ gmul 0x03 a.b1 ^^^ a.b2 ^^^ a.b3,
   a.b0 ^^^ gmul 0x02 a.b1 ^^^ gmul 0x03 a.b2 ^^^ a.b3,
   a.b0 ^^^ a.b1 ^^^ gmul 0x02 a.b2 ^^^ gmul 0x03 a.b3,
   gmul 0x03 a.b0 ^^^ a.b1 ^^^ a.b2 ^^^ gmul 0x02 a.b3⟩

/-- R142: one column of InvMixColumns. -/
def invMixColumn (a : Quad) : Quad :=
  ⟨gmul 0x0E a.b0 ^^^ gmul 0x0B a.b1 ^^^ gmul 0x0D a.b2 ^^^ gmul 0x09 a.b3,
   gmul 0x09 a.b0 ^^^ gmul 0x0E a.b1 ^^^ gmul 0x0B a.b2 ^^^ gmul 0x0D a.b3,
   gmul 0x0D a.b0 ^^^ gmul 0x09 a.b1 ^^^ gmul 0x0E a.b2 ^^^ gmul 0x0B a.b3,
   gmul 0x0B a.b0 ^^^ gmul 0x0D a.b1 ^^^ gmul 0x09 a.b2 ^^^ gmul 0x0E a.b3⟩

/-- R142 MixColumns. -/
def mixColumns (m : Matrix) : Matrix :=
  m.mapColumns mixColumn

/-- R142 InvMixColumns. -/
def invMixColumns (m : Matrix) : Matrix :=
  m.mapColumns invMixColumn

/-- R143: one of the rounds 1..13 of encryption. -/
def encRound (w : List Quad) (m : Matrix) (n : Nat) : Matrix :=
  addRoundKey w n (mixColumns (shiftRows (subBytes m)))

/-- R144: one of the rounds 13..1 of decryption. -/
def decRound (w : List Quad) (m : Matrix) (n : Nat) : Matrix :=
  invMixColumns (addRoundKey w n (invSubBytes (invShiftRows m)))

/-- R143: the rounds between load and store. -/
def encMatrix (w : List Quad) (m : Matrix) : Matrix :=
  addRoundKey w rounds
    (shiftRows (subBytes ((List.range' 1 (rounds - 1)).foldl (encRound w) (addRoundKey w 0 m))))

/-- R144: the rounds between load and store. -/
def decMatrix (w : List Quad) (m : Matrix) : Matrix :=
  addRoundKey w 0
    (invSubBytes (invShiftRows ((List.range' 1 (rounds - 1)).reverse.foldl (decRound w) (addRoundKey w rounds m))))

/-- R143: block encryption E(w, x). -/
def encBlock (w : List Quad) (x : Bytes) : Bytes :=
  store (encMatrix w (load x))

/-- R144: block decryption D(w, y). -/
def decBlock (w : List Quad) (y : Bytes) : Bytes :=
  store (decMatrix w (load y))

/-- R145: `pad(m) = m ++ [0xEE] * (pad16(len(m)) - len(m))`. -/
def padMessage (m : Bytes) : Bytes :=
  m ++ List.replicate (pad16 m.length - m.length) padByte

/-- The first `count` blocks of a message, in order. -/
def takeBlocks : Nat → Bytes → List Bytes
  | 0, _ => []
  | count + 1, m => m.take blockLen :: takeBlocks count (m.drop blockLen)

/-- R145: a message cut into `len / 16` blocks. -/
def blocks (m : Bytes) : List Bytes :=
  takeBlocks (m.length / blockLen) m

/-- R146: `encrypt(m, p)`, the blocks of the padded message enciphered independently in order. -/
def encrypt (m password : Bytes) : Bytes :=
  (blocks (padMessage m)).flatMap (encBlock (keySchedule password))

/-- R147: `decrypt(c, p)`, the blocks deciphered independently in order; nothing is stripped. -/
def decrypt (c password : Bytes) : Bytes :=
  (blocks c).flatMap (decBlock (keySchedule password))

/-- R137 KSCHED. -/
def execKsched (password : Bytes) (s : State) : Host.Outcome State Fault Refusal :=
  if !hasKey password then reply s .badOperand []
  else reply s .ok [(keySchedule password).flatMap Quad.bytes]

/-- R146 ENC: the password's length is checked before the message's (R204). -/
def execEnc (plaintext password : Bytes) (s : State) : Host.Outcome State Fault Refusal :=
  if !hasKey password then reply s .badOperand []
  else if maxField < (padMessage plaintext).length then reply s .badOperand []
  else reply s .ok [encrypt plaintext password]

/-- R147 DEC: the password's length is checked before the ciphertext's (R204). -/
def execDec (ciphertext password : Bytes) (s : State) : Host.Outcome State Fault Refusal :=
  if !hasKey password then reply s .badOperand []
  else if ciphertext.length % blockLen ≠ 0 then reply s .badOperand []
  else reply s .ok [decrypt ciphertext password]

end Sys2Proof.Machine
end

