-- ==== Sys2Proof/Machine/Codec.lean ====
section
/-! DEFINITION. The ip_frame_wrapper_unwrapper unit: the IP150 wire frame (30_encoding.md rules R73 to R75), IPWRAP, IPUNWRAP, HSCONN,
MSPLIT and the handshake's transitions (44_ip_codec.md rules R160 to R175). -/

namespace Sys2Proof.Machine

/-- A pattern of a cleartext class admits the frame's three bytes. -/
def patternMatches (p : ClearPattern) (mt cmd sub : Byte) : Bool :=
  (p.messageType == none || p.messageType == some mt) && (p.command == none || p.command == some cmd) &&
    (p.subCommand == none || p.subCommand == some sub)

/-- R160: the parameter CLEAR(mt, cmd, sub): the frame's payload is cleartext. -/
def clearPayload (cfg : Config) (mt cmd sub : Byte) : Bool :=
  match cfg.clear with
  | .connectFrames => cmd == cfg.cmdConnect
  | .anyOf patterns => patterns.any fun p => patternMatches p mt cmd sub

/-- R161: `WL(L, mt, cmd, sub)`, the payload's length on the wire. -/
def wireLength (cfg : Config) (payloadLen : Nat) (mt cmd sub : Byte) : Nat :=
  if clearPayload cfg mt cmd sub then payloadLen else pad16 payloadLen

/-- R163, R165: the message_type is one of the four codes of R74. -/
def knownMessageType (cfg : Config) (mt : Byte) : Bool :=
  (messageTypes cfg).contains mt

/-- R73: the header bytes a field gives, by offset. -/
def headerFields (cfg : Config) (payloadLen : Nat) (h : WireHeader) : List (Nat × Byte) :=
  [(0, magic), (cfg.layout.lengthAt, lowByte payloadLen), (cfg.layout.lengthAt + 1, lowByte (payloadLen >>> 8)),
   (cfg.layout.messageTypeAt, h.messageType), (cfg.layout.flagsAt, h.flags), (cfg.layout.commandAt, h.command),
   (cfg.layout.subCommandAt, h.subCommand)]

/-- R73, R163, R164: the 16 header bytes on build: each field at its offset, HDR_FILL in the bytes no field occupies. The spec
gives HDR_FILL for bytes 7 to 15; that a byte of 1 to 6 which another layout vacates holds it too is the model's choice
(DESIGN CHOICE, unsafe, log 20). -/
def buildHeader (cfg : Config) (payloadLen : Nat) (h : WireHeader) : Bytes :=
  (List.range hdrLen).map fun o => ((headerFields cfg payloadLen h).lookup o).getD cfg.hdrFill

/-- R73, R165: the payload length L, little-endian, on parse. -/
def parseLength (cfg : Config) (w : Bytes) : Nat :=
  u16 (w.getD cfg.layout.lengthAt 0x00) (w.getD (cfg.layout.lengthAt + 1) 0x00)

/-- R73, R165: the four header bytes on parse; the filler is ignored. -/
def parseHeader (cfg : Config) (w : Bytes) : WireHeader :=
  { messageType := w.getD cfg.layout.messageTypeAt 0x00
    flags := w.getD cfg.layout.flagsAt 0x00
    command := w.getD cfg.layout.commandAt 0x00
    subCommand := w.getD cfg.layout.subCommandAt 0x00 }

/-- R165: `P <- 16 + WL(L, mt, cmd, sub)`, the bytes the frame at the front occupies. -/
def frameEnd (cfg : Config) (w : Bytes) : Nat :=
  hdrLen + wireLength cfg (parseLength cfg w) (parseHeader cfg w).messageType (parseHeader cfg w).command
    (parseHeader cfg w).subCommand

/-- R163: the payload on the wire: in the clear, or enciphered under `S.SEC` (R169). -/
def wrapPayload (s : State) (h : WireHeader) (p : Bytes) : Bytes :=
  if clearPayload s.cfg h.messageType h.command h.subCommand then p else encrypt p s.sec

/-- R165: `pl`: the wire payload, deciphered under `S.SEC` (R169) and cut to L if it is not in the clear; never
stripped (R148). -/
def framePayload (s : State) (w : Bytes) : Bytes :=
  let h := parseHeader s.cfg w
  let body := slice w hdrLen (frameEnd s.cfg w)
  if clearPayload s.cfg h.messageType h.command h.subCommand then body
  else (decrypt body s.sec).take (parseLength s.cfg w)

/-- R162, R165 to R168: the connect checks of an IPUNWRAP frame: the state after their writes, or none for
AUTH_ERROR. -/
def connectCheck (s : State) (h : WireHeader) (pl : Bytes) : Option State :=
  if h.command ≠ s.cfg.cmdConnect then some s
  else if h.messageType = s.cfg.mtIpRequest ∧ h.subCommand = 0x00 then
    if pl = s.sec then some s else none
  else if h.messageType = s.cfg.mtIpResponse ∧ h.subCommand = 0x03 then
    if pl ≠ [] ∧ pl.getD 0 0x00 &&& authMask = authVal then some s else none
  else if h.messageType = s.cfg.mtIpResponse then
    if (slice pl keySliceLo keySliceHi).length ≠ sessionKeyLen then none
    else if s.hs = .awaitingConnectAck then some (s.installKey (slice pl keySliceLo keySliceHi))
    else some s
  else some s

/-- R170: the loop of split on the payload from position i on, at most `fuel` segments; none is OVERRUN. -/
def splitLoop : Nat → Bytes → Option (List Bytes)
  | _, [] => some []
  | 0, _ :: _ => none
  | fuel + 1, n :: rest =>
    if rest.length < n.toNat then none
    else (splitLoop fuel (rest.drop n.toNat)).map (rest.take n.toNat :: ·)

/-- R170: `split(p)`. Each pass consumes its length byte, so the payload's length bounds the passes. -/
def split (p : Bytes) : Option (List Bytes) :=
  splitLoop p.length p

/-- R165, R172: the segments of a frame's payload: split when `cmd == CMD_MULTICOMMAND`, otherwise none are emitted. -/
def frameSegments (cfg : Config) (h : WireHeader) (pl : Bytes) : Option (List Bytes) :=
  if h.command = cfg.cmdMulticommand then split pl else some []

/-- R163 IPWRAP, its checks in the order of R204. -/
def execIpwrap (hdr payload : Bytes) (s : State) : Host.Outcome State Fault Refusal :=
  if s.hs = .failed then reply s .sessionFailed []
  else
    match headerOperand hdr with
    | none => reply s .badOperand []
    | some h =>
      if !knownMessageType s.cfg h.messageType then reply s .badOperand []
      else if maxField < hdrLen + (wrapPayload s h payload).length then reply s .badOperand []
      else reply s .ok [buildHeader s.cfg payload.length h ++ wrapPayload s h payload]

/-- R165 IPUNWRAP, its checks in the order of R204; R173: a passthrough payload is returned unmodified. -/
def execIpunwrap (wire : Bytes) (s : State) : Host.Outcome State Fault Refusal :=
  if s.hs = .failed then reply s .sessionFailed []
  else if wire.length < hdrLen then reply s .incomplete []
  else if wire.getD 0 0x00 ≠ magic then reply s .decodeError [le16 0]
  else if wire.length < frameEnd s.cfg wire then reply s .incomplete []
  else if !knownMessageType s.cfg (parseHeader s.cfg wire).messageType then
    reply s .decodeError [le16 (frameEnd s.cfg wire)]
  else
    match connectCheck s (parseHeader s.cfg wire) (framePayload s wire) with
    | none => reply s.failSession .authError [le16 (frameEnd s.cfg wire)]
    | some s' =>
      match frameSegments s.cfg (parseHeader s.cfg wire) (framePayload s wire) with
      | none => reply s' .decodeError [le16 (frameEnd s.cfg wire)]
      | some segs =>
        reply s' .ok
          (le16 (frameEnd s.cfg wire) :: (parseHeader s.cfg wire).bytes :: framePayload s wire :: segs)

/-- R164: the header bytes of the connect request. -/
def connectHeader (cfg : Config) : WireHeader :=
  { messageType := cfg.mtIpRequest, flags := cfg.flagsConnect, command := cfg.cmdConnect, subCommand := 0x00 }

/-- R164 HSCONN: the payload is `S.SEC` in the clear, as the rule's pseudocode emits it (log 11). -/
def execHsconn (s : State) : Host.Outcome State Fault Refusal :=
  if s.hs = .failed then reply s .sessionFailed []
  else if s.hs ≠ .disconnected then reply s .stateError []
  else reply (s.setHs .awaitingConnectAck) .ok [buildHeader s.cfg s.sec.length (connectHeader s.cfg) ++ s.sec]

/-- R171 MSPLIT: it runs in every handshake state. -/
def execMsplit (payload : Bytes) (s : State) : Host.Outcome State Fault Refusal :=
  match split payload with
  | none => reply s .decodeError []
  | some segs => reply s .ok segs

end Sys2Proof.Machine
end

