-- ==== Sys2Proof/Machine/Control.lean ====
section
/-! DEFINITION. The control commands: NOP, STAT and DISC (45_control.md rules R190 to R192). -/

namespace Sys2Proof.Machine

/-- R190 NOP. -/
def execNop (s : State) : Host.Outcome State Fault Refusal :=
  reply s .ok []

/-- R30, R191: the three fields of the status view. -/
def statusView (s : State) : List Bytes :=
  [[handshakeCode s.hs], le32 (min s.buf.length 0xFFFFFFFF), [lowByte s.sec.length]]

/-- R191 STAT. -/
def execStat (s : State) : Host.Outcome State Fault Refusal :=
  reply s .ok (statusView s)

/-- R192 DISC. -/
def execDisc (s : State) : Host.Outcome State Fault Refusal :=
  reply s.disconnect .ok []

end Sys2Proof.Machine
end

