-- ==== Sys2Proof/Machine/Checksum.lean ====
section
/-! DEFINITION. The checksum_validator unit: CKV and CKG (41_checksum.md rules R100 to R102). -/

namespace Sys2Proof.Machine

/-- R102: `sum(body) % 256`, as a byte. -/
def checksumByte (body : Bytes) : Byte :=
  lowByte (byteSum body)

/-- R100: at least 4 bytes, and the sum of all but the last, mod 256, is the last. -/
def checksum (f : Bytes) : Bool :=
  decide (minFrame ≤ f.length) && decide (byteSum f.dropLast % 256 = (f.getLastD 0).toNat)

/-- R101 CKV. -/
def execCkv (frame : Bytes) (s : State) : Host.Outcome State Fault Refusal :=
  reply s .ok [[boolByte (checksum frame)]]

/-- R102 CKG. -/
def execCkg (body : Bytes) (s : State) : Host.Outcome State Fault Refusal :=
  reply s .ok [[checksumByte body]]

end Sys2Proof.Machine
end

