-- ==== Sys2Proof/Machine/Framer.lean ====
section
/-! DEFINITION. The stream_framer_fsm unit: FEED and FLUSH (42_framer.md rules R110 to R121). -/

namespace Sys2Proof.Machine

/-- R110: the candidate length, read from the buffer's first two bytes. Under a marker nibble it is 0, and no other
byte is read (R120). -/
def cand (b : Bytes) : Nat :=
  if (b.getD 0 0 >>> 4) ∈ markerNibbles then 0 else (b.getD 1 0).toNat

/-- What one pass of the scan's loop does. -/
inductive ScanPass where
  /-- The scan returns. -/
  | stop
  /-- A frame is removed from the front and emitted. -/
  | emit (frame rest : Bytes)
  /-- One leading byte is removed and never emitted (R116). -/
  | drop (rest : Bytes)
deriving DecidableEq, Repr

/-- R112: one pass of the loop: steps 1 (R113), 2 (R110), 3 (R113), and 4 (R114 the 37-byte frame, R115 the wait,
R116 the resynchronization). -/
def scanPass (b : Bytes) : ScanPass :=
  if b.length < minFrame then .stop
  else if minFrame ≤ cand b ∧ cand b ≤ b.length ∧ checksum (b.take (cand b)) = true then
    .emit (b.take (cand b)) (b.drop (cand b))
  else if legacyLen ≤ b.length then
    if checksum (b.take legacyLen) = true then .emit (b.take legacyLen) (b.drop legacyLen)
    else if waitLo ≤ cand b ∧ cand b ≤ waitHi then .stop
    else .drop (b.drop 1)
  else .stop

/-- R112: the loop, at most `fuel` passes: the frames in the order removed, and the buffer left. -/
def scanLoop : Nat → Bytes → List Bytes × Bytes
  | 0, b => ([], b)
  | fuel + 1, b =>
    match scanPass b with
    | .stop => ([], b)
    | .emit frame rest => (frame :: (scanLoop fuel rest).1, (scanLoop fuel rest).2)
    | .drop rest => scanLoop fuel rest

/-- R112: the scan. Each pass returns or removes at least one byte (R117), so the buffer's length bounds the passes. -/
def scan (b : Bytes) : List Bytes × Bytes :=
  scanLoop b.length b

/-- R111 FEED: refused past a finite BUF_CAP (R121); otherwise the bytes are appended, the scan runs in the same step
(R43), and the response carries one field per frame. -/
def execFeed (arrived : Bytes) (s : State) : Host.Outcome State Fault Refusal :=
  if s.overCapacity arrived.length then .refused .bufferCapacity
  else
    reply (s.setBuf (scan (s.buf ++ arrived)).2) .ok (scan (s.buf ++ arrived)).1

/-- R118 FLUSH. -/
def execFlush (s : State) : Host.Outcome State Fault Refusal :=
  reply (s.setBuf []) .ok []

end Sys2Proof.Machine
end

