-- ==== Sys2Proof/Machine/Dispatch.lean ====
section
/-! DEFINITION. The meaning of each command, one arm a constructor (30_encoding.md rule R63, in its order). -/

namespace Sys2Proof.Machine

def exec (i : Instr) (s : State) : Host.Outcome State Fault Refusal :=
  match i with
  | .nop => Sys2Proof.Machine.execNop s
  | .ckv frame => Sys2Proof.Machine.execCkv frame s
  | .ckg body => Sys2Proof.Machine.execCkg body s
  | .feed arrived => Sys2Proof.Machine.execFeed arrived s
  | .flush => Sys2Proof.Machine.execFlush s
  | .ksched password => Sys2Proof.Machine.execKsched password s
  | .enc plaintext password => Sys2Proof.Machine.execEnc plaintext password s
  | .dec ciphertext password => Sys2Proof.Machine.execDec ciphertext password s
  | .ipwrap hdr payload => Sys2Proof.Machine.execIpwrap hdr payload s
  | .ipunwrap wire => Sys2Proof.Machine.execIpunwrap wire s
  | .hsconn => Sys2Proof.Machine.execHsconn s
  | .msplit payload => Sys2Proof.Machine.execMsplit payload s
  | .stat => Sys2Proof.Machine.execStat s
  | .disc => Sys2Proof.Machine.execDisc s

end Sys2Proof.Machine
end

