-- ==== Sys2Proof/Machine/Step.lean ====
section
/-! DEFINITION. One step (00_scope.md rule R5): the block takes what the outside delivers next, and answers it. -/

namespace Sys2Proof.Machine

/-- R61: a packet is decoded and its command executed, or it is answered by the decoder's status. -/
def runPacket (packet : Bytes) (s : State) : Host.Outcome State Fault Refusal :=
  match decode packet with
  | .ok i => exec i s
  | .error e => replyUndecoded s e

/-- R5, R46: one step. A configuration outside the spec has none (R232). With nothing on the port the block is idle and
holds its state (R212). The reset input resets the three elements and returns no response (R230). Overlapping commands
have no step (R47). -/
def step (s : State) : Host.Outcome State Fault Refusal :=
  if !configWf s.cfg then .refused .configOutsideSpec
  else
    match s.port with
    | [] => .next s
    | .command packet :: rest => runPacket packet (s.setPort rest)
    | .resetInput :: rest => .next (s.setPort rest).disconnect
    | .overlapping _ _ :: _ => .refused .overlappingCommands

/-- The command of the opcode table's word delivered next on the command port. -/
def State.withFetchWord (s : State) (nbits w : Nat) : State :=
  s.setPort (.command (tablePacket nbits w) :: s.port)

end Sys2Proof.Machine
end

