-- ==== Sys2Proof/Machine/Assembler.lean ====
section
/-! DEFINITION. The assembler of 30_encoding.md rules R70 and R71: a line of text to one command, the pseudo-instructions, and
the literal FRAME. It runs on the host's side and no step calls it. Where R70 leaves the text's form open, log 17 says what
this assembler takes. Text is a list of characters. -/

namespace Sys2Proof.Machine

/-- R71 FRAME: `b ++ [sum(b) % 256]`, a byte string, not a command. -/
def frameLiteral (b : Bytes) : Bytes :=
  b ++ [checksumByte b]

/-- R71 WRAPPT: a serial frame as a passthrough request. -/
def wrapPt (cfg : Config) (p : Bytes) : Instr :=
  .ipwrap [cfg.mtSerialPtRequest, 0x00, cfg.cmdPassthrough, 0x00] p

/-- R71 WRAPPTR: a serial frame as a passthrough response. -/
def wrapPtr (cfg : Config) (p : Bytes) : Instr :=
  .ipwrap [cfg.mtSerialPtResponse, 0x00, cfg.cmdPassthrough, 0x00] p

/-- R71 WRAPMC: the segments, each with its length byte; a segment longer than 255 bytes rejects the line. -/
def wrapMc (cfg : Config) (segs : List Bytes) : Option Instr :=
  if segs.all fun s => decide (s.length ≤ 255) then
    some (.ipwrap [cfg.mtIpRequest, 0x00, cfg.cmdMulticommand, 0x00] (segs.flatMap fun s => lowByte s.length :: s))
  else none

/-- R70: the parts of a line. -/
inductive Token where
  | word (name : List Char)
  | literal (b : Bytes)
  | comma
  | plus
deriving DecidableEq, Repr

/-- The value of a hex digit, in either case. -/
def hexDigit (c : Char) : Option Nat :=
  if '0' ≤ c ∧ c ≤ '9' then some (c.toNat - 48)
  else if 'a' ≤ c ∧ c ≤ 'f' then some (c.toNat - 87)
  else if 'A' ≤ c ∧ c ≤ 'F' then some (c.toNat - 55)
  else none

/-- R70: hex pairs with optional spaces between them. -/
def hexPairs : List Char → Option Bytes
  | [] => some []
  | ' ' :: rest => hexPairs rest
  | a :: b :: rest =>
    match hexDigit a, hexDigit b, hexPairs rest with
    | some hi, some lo, some bs => some (lowByte (16 * hi + lo) :: bs)
    | _, _, _ => none
  | _ => none

/-- R70: ASCII bytes. -/
def asciiBytes : List Char → Option Bytes
  | [] => some []
  | c :: rest => if c.toNat < 128 then (asciiBytes rest).map (lowByte c.toNat :: ·) else none

/-- The text up to the closing quote, and the text after it. -/
def takeQuoted : List Char → Option (List Char × List Char)
  | [] => none
  | '"' :: rest => some ([], rest)
  | c :: rest => (takeQuoted rest).map fun q => (c :: q.1, q.2)

/-- The characters of mnemonics, symbolic names and byte values. -/
def wordChar (c : Char) : Bool :=
  ('0' ≤ c ∧ c ≤ '9') || ('a' ≤ c ∧ c ≤ 'z') || ('A' ≤ c ∧ c ≤ 'Z') || c == '_'

/-- R70: a line cut into its parts; `;` outside a quoted literal starts a comment. `fuel` bounds the parts. -/
def lexLine : Nat → List Char → Option (List Token)
  | _, [] => some []
  | 0, _ :: _ => none
  | fuel + 1, c :: rest =>
    if c = ' ' ∨ c = '\t' then lexLine fuel rest
    else if c = ';' then some []
    else if c = ',' then (lexLine fuel rest).map (Token.comma :: ·)
    else if c = '+' then (lexLine fuel rest).map (Token.plus :: ·)
    else if c = '"' then
      match takeQuoted rest with
      | none => none
      | some (text, after) =>
        match asciiBytes text, lexLine fuel after with
        | some b, some ts => some (.literal b :: ts)
        | _, _ => none
    else if c = 'h' ∧ rest.head? = some '"' then
      match takeQuoted (rest.drop 1) with
      | none => none
      | some (text, after) =>
        match hexPairs text, lexLine fuel after with
        | some b, some ts => some (.literal b :: ts)
        | _, _ => none
    else if wordChar c then
      (lexLine fuel (rest.dropWhile wordChar)).map (Token.word (c :: rest.takeWhile wordChar) :: ·)
    else none

/-- R70, R71: the value of an operand: a literal, a concatenation of literals, or FRAME of one. -/
def operandValue : List Token → Option Bytes
  | [.literal b] => some b
  | .literal b :: .plus :: rest => (operandValue rest).map (b ++ ·)
  | .word ['F', 'R', 'A', 'M', 'E'] :: rest => (operandValue rest).map frameLiteral
  | _ => none

/-- R70: the symbolic names. R70 names two and says "such as"; that the names are these nine, the OPEN parameters of R7 that
are one byte, and no other, is the model's choice (DESIGN CHOICE, safe, log 17). -/
def symbolValue (cfg : Config) (name : List Char) : Option Byte :=
  [("MT_IP_RESPONSE".toList, cfg.mtIpResponse), ("MT_SERIAL_PT_RESPONSE".toList, cfg.mtSerialPtResponse),
   ("MT_IP_REQUEST".toList, cfg.mtIpRequest), ("MT_SERIAL_PT_REQUEST".toList, cfg.mtSerialPtRequest),
   ("CMD_PASSTHROUGH".toList, cfg.cmdPassthrough), ("CMD_CONNECT".toList, cfg.cmdConnect),
   ("CMD_MULTICOMMAND".toList, cfg.cmdMulticommand), ("FLAGS_CONNECT".toList, cfg.flagsConnect),
   ("HDR_FILL".toList, cfg.hdrFill)].lookup name

/-- R70: one of the four byte values of IPWRAP's long form: `0xHH`, `HH`, or a symbolic name. That symbolic names stand here
only, and not in a byte-string operand, is the model's choice (DESIGN CHOICE, safe, log 17). -/
def byteValue (cfg : Config) : List Token → Option Byte
  | [.word ['0', 'x', a, b]] =>
    match hexDigit a, hexDigit b with
    | some hi, some lo => some (lowByte (16 * hi + lo))
    | _, _ => none
  | [.word [a, b]] =>
    match hexDigit a, hexDigit b with
    | some hi, some lo => some (lowByte (16 * hi + lo))
    | _, _ => none
  | [.word name] => symbolValue cfg name
  | _ => none

/-- R70: the operands, cut at the commas. -/
def cutAtCommas : List Token → List (List Token)
  | [] => [[]]
  | .comma :: rest => [] :: cutAtCommas rest
  | t :: rest =>
    match cutAtCommas rest with
    | first :: others => (t :: first) :: others
    | [] => [[t]]

/-- R63: the mnemonic of a row. -/
def mnemonicOf : Opcode → List Char
  | .nop => "NOP".toList
  | .ckv => "CKV".toList
  | .ckg => "CKG".toList
  | .feed => "FEED".toList
  | .flush => "FLUSH".toList
  | .ksched => "KSCHED".toList
  | .enc => "ENC".toList
  | .dec => "DEC".toList
  | .ipwrap => "IPWRAP".toList
  | .ipunwrap => "IPUNWRAP".toList
  | .hsconn => "HSCONN".toList
  | .msplit => "MSPLIT".toList
  | .stat => "STAT".toList
  | .disc => "DISC".toList

/-- The command of a mnemonic and its operands, `args` the operands' tokens. -/
def assembleCommand (cfg : Config) (name : List Char) (args : List (List Token)) : Option Instr :=
  if name = "WRAPPT".toList then
    match args with
    | [p] => (operandValue p).map (wrapPt cfg)
    | _ => none
  else if name = "WRAPPTR".toList then
    match args with
    | [p] => (operandValue p).map (wrapPtr cfg)
    | _ => none
  else if name = "WRAPMC".toList then (args.mapM operandValue).bind (wrapMc cfg)
  else
    match Opcode.all.find? fun o => mnemonicOf o == name with
    | none => none
    | some o =>
      match o, args with
      | .ipwrap, [mt, fl, cmd, sub, payload] =>
        match byteValue cfg mt, byteValue cfg fl, byteValue cfg cmd, byteValue cfg sub, operandValue payload with
        | some m, some f, some c, some u, some p => some (.ipwrap [m, f, c, u] p)
        | _, _, _, _, _ => none
      | _, _ => if args.length = o.operandCount then (args.mapM operandValue).map o.build else none

/-- What a line of text is. -/
inductive Assembled where
  /-- No command: nothing but blanks and a comment. -/
  | blank
  | command (i : Instr)
  /-- The assembler rejects the line (R71). -/
  | rejected
deriving DecidableEq, Repr

/-- R70: one line of text. An operand no 16-bit length describes rejects the line (R60). -/
def assembleLine (cfg : Config) (line : List Char) : Assembled :=
  match lexLine line.length line with
  | none => .rejected
  | some [] => .blank
  | some (.word name :: rest) =>
    match assembleCommand cfg name (if rest = [] then [] else cutAtCommas rest) with
    | none => .rejected
    | some i => if i.wf then .command i else .rejected
  | some _ => .rejected

end Sys2Proof.Machine
end

