-- ==== Sys2Proof/Safety.lean ====
section
/-! DEFINITION. What the claims are stated in: the invariant of the block, the framer's rest and wedge states, the frames an IPUNWRAP
can be given, the relation to FIPS-197. No step calls any of it. -/

namespace Sys2Proof.Machine

/-- R117: the scan, started on `b`, stops at once. -/
abbrev AtRest (b : Bytes) : Prop :=
  scanPass b = .stop

/-- R234: the four conditions of the framer wedge. -/
structure Wedged (b : Bytes) : Prop where
  candLow : 37 ≤ cand b
  candWhole : cand b ≤ b.length
  candHigh : cand b ≤ 71
  candFails : checksum (b.take (cand b)) = false
  legacyFails : checksum (b.take 37) = false

/-- R20, R22, R23, R25, R117, R121, R232: what holds of the block between commands. -/
structure State.Inv (s : State) : Prop where
  /-- R232: the instance is within the spec. -/
  config : configWf s.cfg = true
  /-- R20: `0 <= len(S.SEC) <= 32`. -/
  secretShort : s.sec.length ≤ 32
  /-- R25: no command observes `SessionKeyReceived` at its start. -/
  notTransient : s.hs ≠ .sessionKeyReceived
  /-- R23: the secret is CFG_PW until a key is installed. -/
  secretConfigured : s.hs = .disconnected ∨ s.hs = .awaitingConnectAck → s.sec = s.cfg.cfgPw
  /-- R168: an installed session key is exactly 16 bytes. -/
  secretInstalled : s.hs = .established → s.sec.length = 16
  /-- R20, R121: `len(S.B) <= CFG.BUF_CAP`. -/
  bufferBounded : ∀ cap, s.cfg.bufCap = some cap → s.buf.length ≤ cap
  /-- R117: the last scan left the buffer at rest. -/
  bufferAtRest : AtRest s.buf

/-- R62, R64: every packet on the response port is a status byte of R64 and whole length-prefixed fields. -/
def ResponsesWf (s : State) : Prop :=
  ∀ p ∈ s.responses, (parseResponse p).isSome = true

/-- R60, R62: an operand or a result field in its packet: its length, 2 bytes little-endian, then its bytes. -/
def wireField (f : Bytes) : Bytes :=
  [BitVec.ofNat 8 f.length, BitVec.ofNat 8 (f.length / 256)] ++ f

/-- R62: a response packet: the status code, then each field with its 2-byte little-endian length. -/
def responsePacket (code : Byte) (fields : List Bytes) : Bytes :=
  code :: fields.flatMap wireField

/-- The state `s` with one more response packet returned, and nothing else changed. -/
def State.answered (s : State) (packet : Bytes) : State :=
  { s with responses := s.responses ++ [packet] }

/-- The three state elements of R20 and the configuration are those of `t`. -/
structure SameBlock (s t : State) : Prop where
  cfg : t.cfg = s.cfg
  buf : t.buf = s.buf
  hs : t.hs = s.hs
  sec : t.sec = s.sec

/-- R165: `wire` begins with a whole frame that passes the checks before the connect checks: at least 16 bytes, the magic
byte, all `P` bytes present, a known message_type. -/
structure WholeFrame (cfg : Config) (wire : Bytes) : Prop where
  header : 16 ≤ wire.length
  magicByte : wire.getD 0 0x00 = 0xAA
  whole : frameEnd cfg wire ≤ wire.length
  known : (parseHeader cfg wire).messageType ∈
    [cfg.mtIpResponse, cfg.mtSerialPtResponse, cfg.mtIpRequest, cfg.mtSerialPtRequest]

/-- R165: the result fields of an IPUNWRAP that answers OK, less its segments. -/
def unwrapFields (s : State) (wire : Bytes) : List Bytes :=
  [le16 (frameEnd s.cfg wire), (parseHeader s.cfg wire).bytes, framePayload s wire]

/-- R170: segments as a multicommand payload. -/
def joinSegments (segs : List Bytes) : Bytes :=
  segs.flatMap fun g => lowByte g.length :: g

/-- R162: the header of a key response. -/
structure IsKeyResponse (cfg : Config) (h : WireHeader) : Prop where
  messageType : h.messageType = cfg.mtIpResponse
  command : h.command = cfg.cmdConnect
  subCommand : h.subCommand ≠ 0x03

/-- R162: the header of a flag response. -/
structure IsFlagResponse (cfg : Config) (h : WireHeader) : Prop where
  messageType : h.messageType = cfg.mtIpResponse
  command : h.command = cfg.cmdConnect
  subCommand : h.subCommand = 0x03

/-- R162: the header of a password request. -/
structure IsPasswordRequest (cfg : Config) (h : WireHeader) : Prop where
  messageType : h.messageType = cfg.mtIpRequest
  command : h.command = cfg.cmdConnect
  subCommand : h.subCommand = 0x00

/-- R162: the frames and payloads that fail a session: a key response without 16 key bytes, a flag response whose byte 0 is
missing or has not the high nibble 1, a password request that does not carry the secret. -/
def FailsSession (cfg : Config) (secret : Bytes) (h : WireHeader) (pl : Bytes) : Prop :=
  (IsKeyResponse cfg h ∧ pl.length < 17) ∨
  (IsFlagResponse cfg h ∧ (pl = [] ∨ (pl.getD 0 0x00).toNat / 16 ≠ 1)) ∨
  (IsPasswordRequest cfg h ∧ pl ≠ secret)

/-- R112: the buffers the scan of `b` looks at, in order: `b` itself, and what each pass leaves; at most `fuel` passes. -/
def frontBuffers : Nat → Bytes → List Bytes
  | 0, b => [b]
  | fuel + 1, b =>
    b ::
      match scanPass b with
      | .stop => []
      | .emit _ rest => frontBuffers fuel rest
      | .drop rest => frontBuffers fuel rest

/-- R119, R236: every candidate length that comes to the front when `b` is scanned is at most 37 (or 0). -/
abbrev FrontCandidatesShort (b : Bytes) : Prop :=
  ∀ c ∈ frontBuffers b.length b, 4 ≤ c.length → cand c ≤ 37

/-- R111, R112: the scans of the FEEDs that bring these arrivals one after another to the buffer `b`: all frames in order, and
the buffer left. -/
def scanArrivals (b : Bytes) : List Bytes → List Bytes × Bytes
  | [] => ([], b)
  | arrived :: later =>
    ((scan (b ++ arrived)).1 ++ (scanArrivals (scan (b ++ arrived)).2 later).1,
     (scanArrivals (scan (b ++ arrived)).2 later).2)

/-- R133: `A(b) = b ^ rotl8(b,1) ^ rotl8(b,2) ^ rotl8(b,3) ^ rotl8(b,4) ^ 0x63`. -/
def sboxAffine (b : Byte) : Byte :=
  b ^^^ b.rotateLeft 1 ^^^ b.rotateLeft 2 ^^^ b.rotateLeft 3 ^^^ b.rotateLeft 4 ^^^ 0x63

/-- R150: `T(x)[4i + j] = x[4j + i]`, a 16-byte block transposed as a 4×4 matrix. -/
def transposeBlock (x : Bytes) : Bytes :=
  (List.range 16).map fun k => x.getD (4 * (k % 4) + k / 4) 0x00

/-- R138: FIPS-197's load, column by column: `s[r][c] = x[r + 4c]`. -/
def loadColumns (x : Bytes) : Matrix :=
  ofColumns (quadAt x 0) (quadAt x 4) (quadAt x 8) (quadAt x 12)

/-- FIPS-197's store, column by column. -/
def storeColumns (m : Matrix) : Bytes :=
  [m.r0.b0, m.r1.b0, m.r2.b0, m.r3.b0, m.r0.b1, m.r1.b1, m.r2.b1, m.r3.b1,
   m.r0.b2, m.r1.b2, m.r2.b2, m.r3.b2, m.r0.b3, m.r1.b3, m.r2.b3, m.r3.b3]

/-- R150: FIPS-197 encryption of one block, with its column-major state. -/
def fipsEncrypt (w : List Quad) (x : Bytes) : Bytes :=
  storeColumns (encMatrix w (loadColumns x))

/-- R150: FIPS-197 decryption of one block, with its column-major state. -/
def fipsDecrypt (w : List Quad) (y : Bytes) : Bytes :=
  storeColumns (decMatrix w (loadColumns y))

end Sys2Proof.Machine
end

