-- ==== Sys2Proof/Certificates/Slice0/Obligations.lean ====
section
/-! DEFINITION. The statements for the provers, each from the numbered rules of spec/ its docstring names. `s.answered p` is `s` with one
more response packet and nothing else changed, so an equation with it says the command's result and its frame at once. -/

open Sys2Proof Sys2Proof.Machine

/-! ### Encoding -/

/-- R60, R61, R63: every command survives its packet, with every operand of 0..65535 bytes. -/
def Obligations.DecodeEncodeRoundTrip : Prop :=
  ∀ i : Instr, i.wf = true → decode (encode i) = .ok i

/-- R60, R61: a packet that decodes is the packet of the command it decodes to, byte for byte, and that command is one a
packet can carry. -/
def Obligations.EncodeDecodeRoundTrip : Prop :=
  ∀ (packet : Bytes) (i : Instr), decode packet = .ok i → i.wf = true ∧ encode i = packet

/-- R60, R63: packets written out from the rules, one of each operand count and of each family. -/
def Obligations.DecodeSpecPackets : Prop :=
  decode [0x00] = .ok .nop ∧
  decode [0x01, 0x04, 0x00, 0x01, 0x02, 0x03, 0x06] = .ok (.ckv [0x01, 0x02, 0x03, 0x06]) ∧
  decode [0x10, 0x03, 0x00, 0xE2, 0x06, 0x01] = .ok (.feed [0xE2, 0x06, 0x01]) ∧
  decode [0x21, 0x01, 0x00, 0x41, 0x02, 0x00, 0x6B, 0x65] = .ok (.enc [0x41] [0x6B, 0x65]) ∧
  decode [0x30, 0x04, 0x00, 0x04, 0x00, 0x00, 0x01, 0x00, 0x00] = .ok (.ipwrap [0x04, 0x00, 0x00, 0x01] []) ∧
  decode [0x3E] = .ok .stat

/-- R61, R66: a packet that is no command's changes no state: an empty packet responds BAD_PACKET; one whose byte 0 is none of the
14 opcodes responds ILLEGAL_OPCODE, whatever follows it; one with a legal opcode that is the packet of no command responds
BAD_PACKET. -/
def Obligations.UndecodedPacketsChangeNoState : Prop :=
  ∀ (s : State) (packet : Bytes) (rest : List Input),
    configWf s.cfg = true → s.port = .command packet :: rest → (∀ i : Instr, i.wf = true → encode i ≠ packet) →
    step s = .next ({ s with port := rest }.answered
      (match packet with
      | [] => [0x0E]
      | opc :: _ =>
        if opc ∈ [0x00, 0x01, 0x02, 0x10, 0x11, 0x20, 0x21, 0x22, 0x30, 0x31, 0x32, 0x33, 0x3E, 0x3F] then [0x0E]
        else [0x0F]))

/-- R62, R64: the host reads the status and every result field back from a response packet: no field is lost and none
runs into the next. -/
def Obligations.ResponsePacketRoundTrip : Prop :=
  ∀ (st : Status) (fields : List Bytes), (∀ f ∈ fields, f.length ≤ 65535) →
    parseResponse (responsePacket st.code fields) = some ⟨st, fields⟩

/-! ### The step -/

/-- R5, R46, R212: when the packet at the head of the command port decodes to a command, the step is that command's meaning, on
the state with the packet taken off the port; with nothing on the port the block is idle and holds its state (that the idle
block takes steps is the model's form, log 3). -/
def Obligations.StepRunsDecodedCommand : Prop :=
  (∀ (s : State) (packet : Bytes) (rest : List Input) (i : Instr),
    configWf s.cfg = true → s.port = .command packet :: rest → decode packet = .ok i →
    step s = exec i { s with port := rest }) ∧
  ∀ s : State, configWf s.cfg = true → s.port = [] → step s = .next s

/-- R230: the reset values of the three elements, for every configuration; and the reset input, applied between any two
commands, leaves them and affects nothing else (the item that carries it is taken off the port, log 4). -/
def Obligations.ResetLeavesSpecifiedState : Prop :=
  (∀ cfg : Config, (State.resetWith cfg).buf = [] ∧ (State.resetWith cfg).hs = .disconnected ∧
    (State.resetWith cfg).sec = cfg.cfgPw ∧ (State.resetWith cfg).cfg = cfg) ∧
  ∀ (s : State) (rest : List Input), configWf s.cfg = true → s.port = .resetInput :: rest →
    step s = .next { s with port := rest, buf := [], hs := .disconnected, sec := s.cfg.cfgPw }

/-- R47 (93 I9), R232 (I4): two runs that have no step are refused, each by its name: two commands that overlap, and an instance
configured outside the spec. -/
def Obligations.RunsWithoutStepAreRefused : Prop :=
  (∀ (s : State) (first second : Bytes) (rest : List Input), configWf s.cfg = true →
    s.port = .overlapping first second :: rest → step s = .refused .overlappingCommands) ∧
  ∀ s : State, 32 < s.cfg.cfgPw.length ∨ s.cfg.cmdConnect = s.cfg.cmdMulticommand ∨
    ¬ [s.cfg.mtIpResponse, s.cfg.mtSerialPtResponse, s.cfg.mtIpRequest, s.cfg.mtSerialPtRequest].Nodup →
    step s = .refused .configOutsideSpec

/-- R200: every command packet, in every state, has exactly one next state and one response, and the next command is
accepted as usual; the one exception is a FEED past a finite BUF_CAP, which has no step. -/
def Obligations.EveryCommandAnswersOnce : Prop :=
  ∀ (s : State) (packet : Bytes) (rest : List Input), configWf s.cfg = true → s.port = .command packet :: rest →
    (∃ t response, step s = .next t ∧ t.responses = s.responses ++ [response] ∧ t.port = rest) ∨
    ∃ arrived cap, decode packet = .ok (.feed arrived) ∧ s.cfg.bufCap = some cap ∧ cap < s.buf.length + arrived.length ∧
      step s = .refused .bufferCapacity

/-- R20, R43: what a command does depends on nothing but its operands, the configuration and the three elements: from two
states that agree on these it gives the same response and the same three elements. -/
def Obligations.CommandsDependOnlyOnTheBlock : Prop :=
  ∀ (i : Instr) (s₁ s₂ t₁ : State), SameBlock s₁ s₂ → exec i s₁ = .next t₁ →
    ∃ t₂ packet, exec i s₂ = .next t₂ ∧ SameBlock t₁ t₂ ∧
      t₁.responses = s₁.responses ++ [packet] ∧ t₂.responses = s₂.responses ++ [packet]

/-! ### Whole-machine rules -/

/-- The invariant holds at reset, for every configuration within the spec. -/
def Obligations.InvariantHoldsAtReset : Prop :=
  ∀ cfg : Config, configWf cfg = true → (State.resetWith cfg).Inv

/-- R20, R23, R25, R117, R121: every step keeps the invariant: the secret is at most 32 bytes, CFG_PW before a key is
installed and 16 bytes after; SessionKeyReceived is not seen between commands; the buffer is at rest and within BUF_CAP. -/
def Obligations.StepKeepsInvariant : Prop :=
  ∀ s t : State, s.Inv → step s = .next t → t.Inv

/-- R62, R64, R69: every step keeps the response port well formed: each packet is a status code of R64 and whole
length-prefixed fields. -/
def Obligations.StepKeepsResponsesWellFormed : Prop :=
  ∀ s t : State, s.Inv → ResponsesWf s → step s = .next t → ResponsesWf t

/-- R22: no step writes the configuration. -/
def Obligations.ConfigurationNeverWritten : Prop :=
  ∀ s t : State, step s = .next t → t.cfg = s.cfg

/-- R21, R130, R163, R171, R190, R191: the checksum and cipher commands, NOP, STAT, MSPLIT and IPWRAP write no state: one
response is returned and nothing else changes. -/
def Obligations.StatelessCommandsFrame : Prop :=
  ∀ (i : Instr) (s t : State), exec i s = .next t →
    (∀ arrived, i ≠ .feed arrived) → i ≠ .flush → (∀ wire, i ≠ .ipunwrap wire) → i ≠ .hsconn → i ≠ .disc →
    ∃ packet, t = s.answered packet

/-- R24, R111, R118, R192: only FEED, FLUSH and DISC touch the receive buffer: FEED appends its operand and then removes a
prefix, FLUSH and DISC empty it; FEED and FLUSH change nothing else, DISC only the session besides; every other command
leaves the buffer as it was. -/
def Obligations.ReceiveBufferFrame : Prop :=
  ∀ (i : Instr) (s t : State), exec i s = .next t →
    (∃ arrived dropped packet, i = .feed arrived ∧ dropped ++ t.buf = s.buf ++ arrived ∧
      t = { s with buf := t.buf }.answered packet) ∨
    (i = .flush ∧ t = { s with buf := [] }.answered [0x00]) ∨
    (i = .disc ∧ t = { s with buf := [], hs := .disconnected, sec := s.cfg.cfgPw }.answered [0x00]) ∨
    ((∀ arrived, i ≠ .feed arrived) ∧ i ≠ .flush ∧ i ≠ .disc ∧ t.buf = s.buf)

/-- R23, R162, R168: the session secret changes only when DISC or reset overwrites it with CFG_PW, or when the IPUNWRAP of a key
response (a whole frame, message_type ip_response, command connect, sub_command not 3) in AwaitingConnectAck installs the
16 payload bytes 1 to 16. -/
def Obligations.SessionSecretFrame : Prop :=
  ∀ s t : State, step s = .next t → t.sec ≠ s.sec →
    (∃ rest, (s.port = .command [0x3F] :: rest ∨ s.port = .resetInput :: rest) ∧ t.sec = s.cfg.cfgPw) ∨
    ∃ packet rest wire, s.port = .command packet :: rest ∧ decode packet = .ok (.ipunwrap wire) ∧
      WholeFrame s.cfg wire ∧ IsKeyResponse s.cfg (parseHeader s.cfg wire) ∧ 17 ≤ (framePayload s wire).length ∧
      s.hs = .awaitingConnectAck ∧ t.hs = .established ∧
      t.sec = ((framePayload s wire).drop 1).take 16 ∧ t.sec.length = 16

/-- R162: the handshake state changes only by a row of the table, with the row's input, condition, `S.SEC` and status: reset; HSCONN in
Disconnected; a key response with 16 key bytes in AwaitingConnectAck; a frame that fails the session, outside Failed; DISC.
The next state is given whole, so nothing else changes. -/
def Obligations.HandshakeTransitions : Prop :=
  ∀ s t : State, step s = .next t → t.hs ≠ s.hs →
    (∃ rest, s.port = .resetInput :: rest ∧
      t = { s with port := rest, buf := [], hs := .disconnected, sec := s.cfg.cfgPw }) ∨
    ∃ packet rest i, s.port = .command packet :: rest ∧ decode packet = .ok i ∧
      ((i = .hsconn ∧ s.hs = .disconnected ∧
        ∃ fields, t = { s with port := rest, hs := .awaitingConnectAck }.answered (responsePacket 0x00 fields)) ∨
      (∃ wire fields, i = .ipunwrap wire ∧ s.hs = .awaitingConnectAck ∧ WholeFrame s.cfg wire ∧
        IsKeyResponse s.cfg (parseHeader s.cfg wire) ∧ 17 ≤ (framePayload s wire).length ∧
        t = { s with port := rest, hs := .established, sec := ((framePayload s wire).drop 1).take 16 }.answered
          (responsePacket 0x00 fields)) ∨
      (∃ wire fields, i = .ipunwrap wire ∧ s.hs ≠ .failed ∧ WholeFrame s.cfg wire ∧
        FailsSession s.cfg s.sec (parseHeader s.cfg wire) (framePayload s wire) ∧
        t = { s with port := rest, hs := .failed }.answered (responsePacket 0x02 fields)) ∨
      (i = .disc ∧
        t = { s with port := rest, buf := [], hs := .disconnected, sec := s.cfg.cfgPw }.answered [0x00]))

/-- R33: the secret can be told from another of the same length only by IPWRAP, IPUNWRAP and HSCONN (HSCONN emits it, log 11), and
the buffer from another of the same length only by FEED: every other command gives the same response. -/
def Obligations.HiddenStateStaysHidden : Prop :=
  (∀ (i : Instr) (s t : State) (k : Bytes), exec i s = .next t → k.length = s.sec.length →
    (∀ hdr payload, i ≠ .ipwrap hdr payload) → (∀ wire, i ≠ .ipunwrap wire) → i ≠ .hsconn →
    ∃ u, exec i { s with sec := k } = .next u ∧ u.responses = t.responses) ∧
  ∀ (i : Instr) (s t : State) (b : Bytes), exec i s = .next t → b.length = s.buf.length →
    (∀ arrived, i ≠ .feed arrived) →
    ∃ u, exec i { s with buf := b } = .next u ∧ u.responses = t.responses

/-- R203: AUTH_ERROR sets the handshake state to Failed and changes nothing else; every other status but OK leaves every
state element as it was. Said of every command packet, also of one that is no command. -/
def Obligations.ErrorStatusesArePrecise : Prop :=
  ∀ (s t : State) (packet : Bytes) (rest : List Input), s.port = .command packet :: rest → step s = .next t →
    ∃ (st : Status) (fields : List Bytes), t.responses = s.responses ++ [responsePacket st.code fields] ∧
      (st = .authError → t = { s with port := rest, hs := .failed }.answered (responsePacket 0x02 fields)) ∧
      (st ≠ .ok → st ≠ .authError → t = { s with port := rest }.answered (responsePacket st.code fields))

/-! ### Control commands -/

/-- R67, R118, R190: NOP responds OK with no fields and changes nothing; FLUSH responds the same and empties the receive buffer,
changing nothing else; both in every state. Their packets are one byte, and a byte more is a malformed packet. -/
def Obligations.NopAndFlushResult : Prop :=
  (∀ s : State, exec .nop s = .next (s.answered [0x00]) ∧
    exec .flush s = .next ({ s with buf := [] }.answered [0x00])) ∧
  decode [0x00] = .ok .nop ∧ decode [0x11] = .ok .flush ∧
  ∀ (b : Byte) (more : Bytes), decode (0x00 :: b :: more) = .error .trailingBytes ∧
    decode (0x11 :: b :: more) = .error .trailingBytes ∧ (decodeErrorStatus .trailingBytes).code = 0x0E

/-- R26, R191: STAT's three fields: the handshake code, the buffer length as 4 bytes little-endian (at most
0xFFFFFFFF), the secret length; it changes nothing. -/
def Obligations.StatResult : Prop :=
  decode [0x3E] = .ok .stat ∧
  ∀ s : State,
    exec .stat s = .next (s.answered (responsePacket 0x00
      [[match s.hs with
        | .disconnected => 0x00
        | .awaitingConnectAck => 0x01
        | .sessionKeyReceived => 0x02
        | .established => 0x03
        | .failed => 0x04],
       [BitVec.ofNat 8 (min s.buf.length 0xFFFFFFFF), BitVec.ofNat 8 (min s.buf.length 0xFFFFFFFF / 256),
        BitVec.ofNat 8 (min s.buf.length 0xFFFFFFFF / 65536), BitVec.ofNat 8 (min s.buf.length 0xFFFFFFFF / 16777216)],
       [BitVec.ofNat 8 s.sec.length]]))

/-- R192, R231: DISC empties the buffer, returns the handshake to Disconnected, overwrites the secret with CFG_PW, and responds
OK, in every state; what it leaves is the reset state of the same configuration, and the reset input leaves the same. -/
def Obligations.DiscResult : Prop :=
  decode [0x3F] = .ok .disc ∧
  ∀ s : State,
    exec .disc s = .next ({ s with buf := [], hs := .disconnected, sec := s.cfg.cfgPw }.answered [0x00]) ∧
    SameBlock (State.resetWith s.cfg) { s with buf := [], hs := .disconnected, sec := s.cfg.cfgPw } ∧
    ∀ rest t, configWf s.cfg = true → s.port = .resetInput :: rest → step s = .next t → SameBlock (State.resetWith s.cfg) t

/-! ### checksum_validator -/

/-- R100, R101: the checksum holds of a frame iff it has at least 4 bytes and the sum of all but the last, mod 256, is the
last; CKV emits 0x01 if it holds, otherwise 0x00; always OK, no state written. -/
def Obligations.CkvResult : Prop :=
  ∀ f : Bytes,
    (checksum f = true ↔
      4 ≤ f.length ∧ ((f.take (f.length - 1)).map BitVec.toNat).sum % 256 = (f.getD (f.length - 1) 0x00).toNat) ∧
    (∀ s : State, exec (.ckv f) s = .next (s.answered [0x00, 0x01, 0x00, if checksum f = true then 0x01 else 0x00])) ∧
    (f.length ≤ 65535 → decode (0x01 :: wireField f) = .ok (.ckv f))

/-- R102: CKG emits the sum of the body mod 256, whatever its length; always OK, no state written. -/
def Obligations.CkgResult : Prop :=
  ∀ body : Bytes,
    (∀ s : State, exec (.ckg body) s =
      .next (s.answered [0x00, 0x01, 0x00, BitVec.ofNat 8 ((body.map BitVec.toNat).sum % 256)])) ∧
    (body.length ≤ 65535 → decode (0x02 :: wireField body) = .ok (.ckg body))

/-- R103: what the checksum detects and what it does not: the byte CKG computes makes a frame valid iff the body has at
least 3 bytes; a change of any one byte of a valid frame is detected; compensating changes of two body bytes, or of a body
byte and the checksum byte, are not; nor is an exchange of two body bytes. -/
def Obligations.ChecksumDetection : Prop :=
  (∀ b : Bytes, checksum (b ++ [BitVec.ofNat 8 ((b.map BitVec.toNat).sum % 256)]) = true ↔ 3 ≤ b.length) ∧
  (∀ (f : Bytes) (k : Nat) (v : Byte), checksum f = true → k < f.length → v ≠ f.getD k 0x00 →
    checksum (f.set k v) = false) ∧
  (∀ (f : Bytes) (j k : Nat) (d : Byte), checksum f = true → j < k → k + 1 < f.length →
    checksum ((f.set j (f.getD j 0x00 + d)).set k (f.getD k 0x00 - d)) = true) ∧
  (∀ (f : Bytes) (k : Nat) (d : Byte), checksum f = true → k + 1 < f.length →
    checksum ((f.set k (f.getD k 0x00 + d)).set (f.length - 1) (f.getD (f.length - 1) 0x00 + d)) = true) ∧
  ∀ (f : Bytes) (j k : Nat), checksum f = true → j + 1 < f.length → k + 1 < f.length →
    checksum ((f.set j (f.getD k 0x00)).set k (f.getD j 0x00)) = true

/-! ### stream_framer_fsm -/

/-- R110: the candidate length of a buffer of at least 4 bytes: 0 under the high nibbles 0x0, 0xF and 0xC, otherwise
byte 1. -/
def Obligations.CandidateLength : Prop :=
  ∀ (b0 b1 b2 b3 : Byte) (rest : Bytes),
    cand (b0 :: b1 :: b2 :: b3 :: rest) =
      if b0.toNat / 16 = 0 ∨ b0.toNat / 16 = 15 ∨ b0.toNat / 16 = 12 then 0 else b1.toNat

/-- R112 to R116: the scan is the loop of R112: each pass stops, emits the candidate slice, emits the 37-byte slice, waits, or
drops one leading byte, and the scan goes on from what is left. -/
def Obligations.ScanIsTheLoop : Prop :=
  ∀ b : Bytes,
    scan b =
      if b.length < 4 then ([], b)
      else if 4 ≤ cand b ∧ cand b ≤ b.length ∧ checksum (b.take (cand b)) = true then
        (b.take (cand b) :: (scan (b.drop (cand b))).1, (scan (b.drop (cand b))).2)
      else if 37 ≤ b.length then
        if checksum (b.take 37) = true then (b.take 37 :: (scan (b.drop 37)).1, (scan (b.drop 37)).2)
        else if 37 ≤ cand b ∧ cand b ≤ 71 then ([], b)
        else scan (b.drop 1)
      else ([], b)

/-- R111, R121: FEED appends its operand, runs the scan, keeps what the scan leaves and answers OK with one field per frame, in
order; nothing else changes. It is so whenever BUF_CAP is unbounded or not exceeded; past a finite one FEED is refused. -/
def Obligations.FeedResult : Prop :=
  ∀ arrived : Bytes,
    (∀ s : State, (∀ cap, s.cfg.bufCap = some cap → s.buf.length + arrived.length ≤ cap) →
      exec (.feed arrived) s =
        .next ({ s with buf := (scan (s.buf ++ arrived)).2 }.answered
          (responsePacket 0x00 (scan (s.buf ++ arrived)).1))) ∧
    (∀ (s : State) (cap : Nat), s.cfg.bufCap = some cap → cap < s.buf.length + arrived.length →
      exec (.feed arrived) s = .refused .bufferCapacity) ∧
    (arrived.length ≤ 65535 → decode (0x10 :: wireField arrived) = .ok (.feed arrived))

/-- R110, R112, R119: the scan never emits an invalid-checksum frame; a frame has 4 to 255 bytes, since it is the candidate
slice or the 37-byte slice. -/
def Obligations.EmittedFramesAreValid : Prop :=
  ∀ b f : Bytes, f ∈ (scan b).1 → checksum f = true ∧ 4 ≤ f.length ∧ f.length ≤ 255

/-- R119, R24: the frames come out in arrival order: one after another, with the bytes left behind them, they are
what arrived less the dropped bytes, and the bytes left are its end. -/
def Obligations.FramesInArrivalOrder : Prop :=
  ∀ b : Bytes, List.Sublist ((scan b).1.flatten ++ (scan b).2) b ∧ (scan b).2 <:+ b

/-- R117: each pass of the scan returns or removes at least one byte; the scan ends in one of the rule's three states; and
run again at once it returns no frames and changes nothing. -/
def Obligations.ScanEndsAtRest : Prop :=
  (∀ b frame rest : Bytes, scanPass b = .emit frame rest ∨ scanPass b = .drop rest → rest.length < b.length) ∧
  ∀ b r : Bytes, (scan b).2 = r →
    (r.length < 4 ∨
      (4 ≤ r.length ∧ r.length < 37 ∧ ¬ (4 ≤ cand r ∧ cand r ≤ r.length ∧ checksum (r.take (cand r)) = true)) ∨
      (37 ≤ r.length ∧ ¬ (4 ≤ cand r ∧ cand r ≤ r.length ∧ checksum (r.take (cand r)) = true) ∧
        checksum (r.take 37) = false ∧ 37 ≤ cand r ∧ cand r ≤ 71)) ∧
    scan r = ([], r)

/-- R119, R236: where every candidate length that comes to the front as the concatenated bytes are scanned is at most 37 (or 0),
the frames and the bytes left depend only on the concatenation: FEEDs of the arrivals, in any number and any split, give
what one scan of the buffer and all of them gives. Bytes inside a frame are no candidates: only what a pass of the scan
looks at counts. -/
def Obligations.SplitIndependence : Prop :=
  ∀ (b : Bytes) (arrivals : List Bytes), AtRest b → FrontCandidatesShort (b ++ arrivals.flatten) →
    scanArrivals b arrivals = scan (b ++ arrivals.flatten)

/-- R234: in the wedge every FEED emits nothing, whatever bytes it brings, and the buffer only grows and stays wedged. -/
def Obligations.WedgedFeedEmitsNothing : Prop :=
  ∀ (s : State) (arrived : Bytes), Wedged s.buf →
    (∀ cap, s.cfg.bufCap = some cap → s.buf.length + arrived.length ≤ cap) →
    exec (.feed arrived) s = .next ({ s with buf := s.buf ++ arrived }.answered [0x00]) ∧ Wedged (s.buf ++ arrived)

/-- R234: the wedge lasts until FLUSH, DISC or reset. -/
def Obligations.WedgeLastsUntilFlushed : Prop :=
  ∀ s t : State, Wedged s.buf → step s = .next t →
    Wedged t.buf ∨
    ∃ rest, s.port = .command [0x11] :: rest ∨ s.port = .command [0x3F] :: rest ∨ s.port = .resetInput :: rest

/-! ### stream_cipher_engine -/

/-- R133, R134: the substitution box is the affine map of the inverse in GF(2^8), and the inverse box undoes it. -/
def Obligations.SubstitutionBoxes : Prop :=
  sbox 0x00 = sboxAffine 0x00 ∧ (∀ a : Byte, a ≠ 0x00 → ∃ b : Byte, gmul a b = 0x01 ∧ sbox a = sboxAffine b) ∧
  ∀ a : Byte, invSbox (sbox a) = a

/-- R135, R136: the key expansion: 60 words, the first 8 the key's, each later one the word 8 before it XORed with the
word before it, rotated, substituted and mixed with the round constant at every eighth, substituted half way between. -/
def Obligations.KeyExpansion : Prop :=
  ∀ k : Bytes, (expand k).length = 60 ∧
    (∀ i, i < 8 → wordAt (expand k) i =
      ⟨k.getD (4 * i) 0x00, k.getD (4 * i + 1) 0x00, k.getD (4 * i + 2) 0x00, k.getD (4 * i + 3) 0x00⟩) ∧
    ∀ i, 8 ≤ i → i < 60 →
      ∃ p t : Quad, p = wordAt (expand k) (i - 1) ∧
        wordAt (expand k) i = (wordAt (expand k) (i - 8)).xor t ∧
        t = if i % 8 = 0 then
            ⟨sbox p.b1 ^^^ [0x00, 0x01, 0x02, 0x04, 0x08, 0x10, 0x20, 0x40].getD (i / 8) 0x00, sbox p.b2, sbox p.b3, sbox p.b0⟩
          else if i % 8 = 4 then ⟨sbox p.b0, sbox p.b1, sbox p.b2, sbox p.b3⟩
          else p

/-- R131, R137: KSCHED answers the 240 bytes of the expansion of the padded password, the first 32 of them that key
itself; a password longer than 32 bytes gets BAD_OPERAND; no state is written. -/
def Obligations.KschedResult : Prop :=
  ∀ password : Bytes,
    (∀ s : State, exec (.ksched password) s = .next (s.answered
      (if password.length ≤ 32 then
        responsePacket 0x00 [(expand (password ++ List.replicate (32 - password.length) 0xEE)).flatMap
          fun q => [q.b0, q.b1, q.b2, q.b3]]
      else [0x04]))) ∧
    (password.length ≤ 65535 → decode (0x20 :: wireField password) = .ok (.ksched password)) ∧
    (password.length ≤ 32 →
      ((expand (password ++ List.replicate (32 - password.length) 0xEE)).flatMap
        fun q => [q.b0, q.b1, q.b2, q.b3]).length = 240 ∧
      ((expand (password ++ List.replicate (32 - password.length) 0xEE)).flatMap
        fun q => [q.b0, q.b1, q.b2, q.b3]).take 32 = password ++ List.replicate (32 - password.length) 0xEE)

/-- R144: for every key schedule and every 16-byte block, decryption undoes encryption. -/
def Obligations.BlockDecryptionUndoesEncryption : Prop :=
  ∀ (w : List Quad) (x : Bytes), x.length = 16 → decBlock w (encBlock w x) = x

/-- R138, R150: the row-major load and store are FIPS-197's column-major ones with the block transposed before and after, in both
directions; the rounds between are the model's own on both sides. -/
def Obligations.RowMajorIsTransposedFips : Prop :=
  ∀ (w : List Quad) (x : Bytes), x.length = 16 →
    encBlock w x = transposeBlock (fipsEncrypt w (transposeBlock x)) ∧
    decBlock w x = transposeBlock (fipsDecrypt w (transposeBlock x))

/-- R145, R146: ENC: BAD_OPERAND for a password longer than 32 bytes or a plaintext longer than 65520, otherwise OK with the
ciphertext: the padded plaintext's blocks, enciphered independently in order, each at its own place; no state is written. -/
def Obligations.EncResult : Prop :=
  ∀ m p : Bytes,
    (∀ s : State, exec (.enc m p) s = .next (s.answered
      (if 32 < p.length ∨ 65520 < m.length then [0x04] else responsePacket 0x00 [encrypt m p]))) ∧
    (encrypt m p).length = 16 * ((m.length + 15) / 16) ∧
    (∀ i, 16 * i < m.length →
      ((encrypt m p).drop (16 * i)).take 16 =
        encBlock (expand (p ++ List.replicate (32 - p.length) 0xEE))
          (((m ++ List.replicate (16 * ((m.length + 15) / 16) - m.length) 0xEE).drop (16 * i)).take 16)) ∧
    (m.length ≤ 65535 → p.length ≤ 65535 → decode (0x21 :: wireField m ++ wireField p) = .ok (.enc m p))

/-- R147: DEC: BAD_OPERAND for a password longer than 32 bytes or a ciphertext that is not whole blocks, otherwise OK with
every block deciphered at its place and nothing stripped; no state is written. -/
def Obligations.DecResult : Prop :=
  ∀ c p : Bytes,
    (∀ s : State, exec (.dec c p) s = .next (s.answered
      (if 32 < p.length ∨ c.length % 16 ≠ 0 then [0x04] else responsePacket 0x00 [decrypt c p]))) ∧
    (c.length % 16 = 0 → (decrypt c p).length = c.length ∧
      ∀ i, 16 * i < c.length →
        ((decrypt c p).drop (16 * i)).take 16 =
          decBlock (expand (p ++ List.replicate (32 - p.length) 0xEE)) ((c.drop (16 * i)).take 16)) ∧
    (c.length ≤ 65535 → p.length ≤ 65535 → decode (0x22 :: wireField c ++ wireField p) = .ok (.dec c p))

/-- R148: DEC of what ENC answers is the padded plaintext, so the plaintext is its first `len(m)` bytes. -/
def Obligations.DecUndoesEnc : Prop :=
  ∀ (m p : Bytes) (s : State), p.length ≤ 32 → m.length ≤ 65520 →
    exec (.enc m p) s = .next (s.answered (responsePacket 0x00 [encrypt m p])) ∧
    exec (.dec (encrypt m p) p) s = .next (s.answered
      (responsePacket 0x00 [m ++ List.replicate (16 * ((m.length + 15) / 16) - m.length) 0xEE]))

/-- R149: passwords that differ only by trailing 0xEE bytes, both at most 32 bytes, give the same key and the same
ciphertexts. -/
def Obligations.KeyAliasing : Prop :=
  ∀ (p : Bytes) (k : Nat), p.length + k ≤ 32 →
    keySchedule (p ++ List.replicate k 0xEE) = keySchedule p ∧
    ∀ (m : Bytes) (s : State), exec (.enc m (p ++ List.replicate k 0xEE)) s = exec (.enc m p) s

/-! ### ip_frame_wrapper_unwrapper -/

/-- R73: on build the header is 16 bytes: the magic byte at 0, the length little-endian and each field at its configured
offset, HDR_FILL elsewhere; with the default layout it is the sequence R163 writes out. That a byte of 1 to 6 which another
layout vacates holds HDR_FILL is the model's choice (DESIGN CHOICE, log 20): the rules give it for bytes 7 to 15 only.
Parsing it gives back the length and the four header bytes, whatever follows it. -/
def Obligations.HeaderBuildAndParse : Prop :=
  ∀ (cfg : Config) (n : Nat) (h : WireHeader), configWf cfg = true →
    (buildHeader cfg n h).length = 16 ∧ (buildHeader cfg n h).getD 0 0x00 = 0xAA ∧
    (buildHeader cfg n h).getD cfg.layout.lengthAt 0x00 = BitVec.ofNat 8 n ∧
    (buildHeader cfg n h).getD (cfg.layout.lengthAt + 1) 0x00 = BitVec.ofNat 8 (n / 256) ∧
    (buildHeader cfg n h).getD cfg.layout.messageTypeAt 0x00 = h.messageType ∧
    (buildHeader cfg n h).getD cfg.layout.flagsAt 0x00 = h.flags ∧
    (buildHeader cfg n h).getD cfg.layout.commandAt 0x00 = h.command ∧
    (buildHeader cfg n h).getD cfg.layout.subCommandAt 0x00 = h.subCommand ∧
    (∀ o, 1 ≤ o → o < 16 → o ∉ layoutOffsets cfg.layout → (buildHeader cfg n h).getD o 0x00 = cfg.hdrFill) ∧
    (cfg.layout = defaultLayout → buildHeader cfg n h =
      [0xAA, BitVec.ofNat 8 n, BitVec.ofNat 8 (n / 256), h.messageType, h.flags, h.command, h.subCommand] ++
        List.replicate 9 cfg.hdrFill) ∧
    (n < 65536 → ∀ after : Bytes,
      parseLength cfg (buildHeader cfg n h ++ after) = n ∧ parseHeader cfg (buildHeader cfg n h ++ after) = h)

/-- R163: IPWRAP on every operand and in every state: SESSION_FAILED in Failed; BAD_OPERAND for a header
that is not 4 bytes, an unknown message_type, or a frame past 65535 bytes; otherwise the header and the payload, in the
clear or under S.SEC. It writes no state. The header is the rule's byte sequence with the default layout; with another it is
`buildHeader`'s. -/
def Obligations.IpwrapResult : Prop :=
  ∀ hdr p : Bytes,
    (∀ s : State, exec (.ipwrap hdr p) s = .next (s.answered
      (if s.hs = .failed then [0x06]
      else
        match hdr with
        | [mt, fl, cmd, sub] =>
          if mt ∉ [s.cfg.mtIpResponse, s.cfg.mtSerialPtResponse, s.cfg.mtIpRequest, s.cfg.mtSerialPtRequest] then [0x04]
          else if clearPayload s.cfg mt cmd sub = true then
            if 65519 < p.length then [0x04]
            else responsePacket 0x00 [buildHeader s.cfg p.length ⟨mt, fl, cmd, sub⟩ ++ p]
          else if 65504 < p.length then [0x04]
          else responsePacket 0x00 [buildHeader s.cfg p.length ⟨mt, fl, cmd, sub⟩ ++ encrypt p s.sec]
        | _ => [0x04]))) ∧
    (∀ (cfg : Config) (mt fl cmd sub : Byte), cfg.layout = defaultLayout →
      buildHeader cfg p.length ⟨mt, fl, cmd, sub⟩ =
        [0xAA, BitVec.ofNat 8 p.length, BitVec.ofNat 8 (p.length / 256), mt, fl, cmd, sub] ++
          List.replicate 9 cfg.hdrFill) ∧
    (hdr.length ≤ 65535 → p.length ≤ 65535 → decode (0x30 :: wireField hdr ++ wireField p) = .ok (.ipwrap hdr p))

/-- R164: HSCONN in every state: SESSION_FAILED in Failed, STATE_ERROR elsewhere but Disconnected, and in Disconnected the
connect request with the secret as payload, the handshake state becoming AwaitingConnectAck and nothing else changing. That the
payload is the secret in the clear whatever CLEAR is configured to, against R23's sentence that no command returns it, is
the model's reading (DEDUCED, log 11). -/
def Obligations.HsconnResult : Prop :=
  decode [0x32] = .ok .hsconn ∧
  ∀ s : State,
    exec .hsconn s =
      (if s.hs = .failed then .next (s.answered [0x06])
      else if s.hs ≠ .disconnected then .next (s.answered [0x05])
      else .next ({ s with hs := .awaitingConnectAck }.answered (responsePacket 0x00
        [buildHeader s.cfg s.sec.length ⟨s.cfg.mtIpRequest, s.cfg.flagsConnect, s.cfg.cmdConnect, 0x00⟩ ++ s.sec]))) ∧
    (s.cfg.layout = defaultLayout →
      buildHeader s.cfg s.sec.length ⟨s.cfg.mtIpRequest, s.cfg.flagsConnect, s.cfg.cmdConnect, 0x00⟩ =
        [0xAA, BitVec.ofNat 8 s.sec.length, BitVec.ofNat 8 (s.sec.length / 256), s.cfg.mtIpRequest, s.cfg.flagsConnect,
          s.cfg.cmdConnect, 0x00] ++ List.replicate 9 s.cfg.hdrFill)

/-- R161, R165: a frame occupies 16 bytes and its payload's wire length, L in the clear and L padded to 16 otherwise; its
payload is cut to L and never stripped. -/
def Obligations.FrameExtentAndPayload : Prop :=
  ∀ (s : State) (wire : Bytes) (h : WireHeader) (n : Nat),
    h = parseHeader s.cfg wire → n = parseLength s.cfg wire →
    if clearPayload s.cfg h.messageType h.command h.subCommand = true then
      frameEnd s.cfg wire = 16 + n ∧ framePayload s wire = (wire.drop 16).take n
    else
      frameEnd s.cfg wire = 16 + 16 * ((n + 15) / 16) ∧
      framePayload s wire = (decrypt ((wire.drop 16).take (16 * ((n + 15) / 16))) s.sec).take n

/-- R165, R202, R204: what IPUNWRAP answers to bytes that are not yet a frame it can look into: INCOMPLETE below 16 bytes;
DECODE_ERROR with consumed 0 on a bad magic byte; INCOMPLETE below the frame's end; DECODE_ERROR with consumed on an unknown
message_type. No state changes. -/
def Obligations.IpunwrapRejectsNonFrames : Prop :=
  (∀ (wire : Bytes) (s : State), s.hs ≠ .failed → ¬ WholeFrame s.cfg wire →
    exec (.ipunwrap wire) s = .next (s.answered
      (if wire.length < 16 then [0x01]
      else if wire.getD 0 0x00 ≠ 0xAA then [0x03, 0x02, 0x00, 0x00, 0x00]
      else if wire.length < frameEnd s.cfg wire then [0x01]
      else responsePacket 0x03 [le16 (frameEnd s.cfg wire)]))) ∧
  ∀ wire : Bytes, wire.length ≤ 65535 → decode (0x31 :: wireField wire) = .ok (.ipunwrap wire)

/-- R168: the session-key response: fewer than 17 payload bytes fail the session with AUTH_ERROR; otherwise bytes 1 to 16 are
installed and the session is Established if it was AwaitingConnectAck, and nothing changes elsewhere. -/
def Obligations.KeyResponse : Prop :=
  ∀ (wire : Bytes) (s : State), configWf s.cfg = true → s.hs ≠ .failed → WholeFrame s.cfg wire →
    (parseHeader s.cfg wire).messageType = s.cfg.mtIpResponse → (parseHeader s.cfg wire).command = s.cfg.cmdConnect →
    (parseHeader s.cfg wire).subCommand ≠ 0x03 →
    exec (.ipunwrap wire) s =
      if (framePayload s wire).length < 17 then
        .next ({ s with hs := .failed }.answered (responsePacket 0x02 [le16 (frameEnd s.cfg wire)]))
      else if s.hs = .awaitingConnectAck then
        .next ({ s with hs := .established, sec := ((framePayload s wire).drop 1).take 16 }.answered
          (responsePacket 0x00 (unwrapFields s wire)))
      else .next (s.answered (responsePacket 0x00 (unwrapFields s wire)))

/-- R167: the flag response: an empty payload, or one whose byte 0 masked with 0xF0 is not 0x10, fails the session with
AUTH_ERROR; otherwise the frame is returned and nothing changes. -/
def Obligations.FlagResponse : Prop :=
  ∀ (wire : Bytes) (s : State), configWf s.cfg = true → s.hs ≠ .failed → WholeFrame s.cfg wire →
    (parseHeader s.cfg wire).messageType = s.cfg.mtIpResponse → (parseHeader s.cfg wire).command = s.cfg.cmdConnect →
    (parseHeader s.cfg wire).subCommand = 0x03 →
    exec (.ipunwrap wire) s =
      if framePayload s wire = [] ∨ ((framePayload s wire).getD 0 0x00).toNat / 16 ≠ 1 then
        .next ({ s with hs := .failed }.answered (responsePacket 0x02 [le16 (frameEnd s.cfg wire)]))
      else .next (s.answered (responsePacket 0x00 (unwrapFields s wire)))

/-- R166: the password request: a payload that is not the active secret, byte for byte, fails the session with AUTH_ERROR;
otherwise the frame is returned and nothing changes. -/
def Obligations.PasswordRequest : Prop :=
  ∀ (wire : Bytes) (s : State), configWf s.cfg = true → s.hs ≠ .failed → WholeFrame s.cfg wire →
    (parseHeader s.cfg wire).messageType = s.cfg.mtIpRequest → (parseHeader s.cfg wire).command = s.cfg.cmdConnect →
    (parseHeader s.cfg wire).subCommand = 0x00 →
    exec (.ipunwrap wire) s =
      if framePayload s wire ≠ s.sec then
        .next ({ s with hs := .failed }.answered (responsePacket 0x02 [le16 (frameEnd s.cfg wire)]))
      else .next (s.answered (responsePacket 0x00 (unwrapFields s wire)))

/-- R162, R165, R173: every other frame that is not a multicommand is returned, its payload unmodified, with OK and no state
change: every frame whose command is not connect, and the connect frames that no check of R166 to R168 concerns. -/
def Obligations.OtherFramesReturned : Prop :=
  ∀ (wire : Bytes) (s : State), s.hs ≠ .failed → WholeFrame s.cfg wire →
    (parseHeader s.cfg wire).command ≠ s.cfg.cmdMulticommand →
    ((parseHeader s.cfg wire).command = s.cfg.cmdConnect →
      (parseHeader s.cfg wire).messageType ≠ s.cfg.mtIpResponse ∧
      ((parseHeader s.cfg wire).messageType = s.cfg.mtIpRequest → (parseHeader s.cfg wire).subCommand ≠ 0x00)) →
    exec (.ipunwrap wire) s = .next (s.answered (responsePacket 0x00 (unwrapFields s wire)))

/-- R170, R172: a multicommand frame, whatever its message_type: a payload that is a sequence of segments is returned with them;
one that overruns gets DECODE_ERROR with consumed; no state changes. -/
def Obligations.MulticommandFrame : Prop :=
  ∀ (wire : Bytes) (s : State), configWf s.cfg = true → s.hs ≠ .failed → WholeFrame s.cfg wire →
    (parseHeader s.cfg wire).command = s.cfg.cmdMulticommand →
    (∀ segs : List Bytes, (∀ g ∈ segs, g.length ≤ 255) → framePayload s wire = joinSegments segs →
      exec (.ipunwrap wire) s = .next (s.answered (responsePacket 0x00 (unwrapFields s wire ++ segs)))) ∧
    ((∀ segs : List Bytes, (∀ g ∈ segs, g.length ≤ 255) → framePayload s wire ≠ joinSegments segs) →
      exec (.ipunwrap wire) s = .next (s.answered (responsePacket 0x03 [le16 (frameEnd s.cfg wire)])))

/-- R170, R171: MSPLIT: a payload that is a sequence of segments is answered with exactly those segments, in order, empty ones
included; every other payload overruns and gets DECODE_ERROR with no fields; no state is written. -/
def Obligations.MsplitResult : Prop :=
  (∀ (segs : List Bytes) (s : State), (∀ g ∈ segs, g.length ≤ 255) →
    exec (.msplit (joinSegments segs)) s = .next (s.answered (responsePacket 0x00 segs))) ∧
  (∀ (payload : Bytes) (s : State), (∀ segs : List Bytes, (∀ g ∈ segs, g.length ≤ 255) → payload ≠ joinSegments segs) →
    exec (.msplit payload) s = .next (s.answered [0x03])) ∧
  ∀ payload : Bytes, payload.length ≤ 65535 → decode (0x33 :: wireField payload) = .ok (.msplit payload)

/-- R174, R207: in Failed the three session commands respond SESSION_FAILED before any other check, with no fields and no state
change; every other command works as in any other state (STAT still reports the handshake state); and Failed is left only
through DISC or reset. -/
def Obligations.FailedIsTerminal : Prop :=
  (∀ (s : State) (hdr payload wire : Bytes), s.hs = .failed →
    exec (.ipwrap hdr payload) s = .next (s.answered [0x06]) ∧
    exec (.ipunwrap wire) s = .next (s.answered [0x06]) ∧
    exec .hsconn s = .next (s.answered [0x06])) ∧
  (∀ (i : Instr) (s t : State) (h : HandshakeState), s.hs = .failed → exec i s = .next t →
    (∀ hdr payload, i ≠ .ipwrap hdr payload) → (∀ wire, i ≠ .ipunwrap wire) → i ≠ .hsconn →
    ∃ u, exec i { s with hs := h } = .next u ∧ u.buf = t.buf ∧ u.sec = t.sec ∧
      (i ≠ .stat → u.responses = t.responses) ∧ (i ≠ .disc → t.hs = .failed ∧ u.hs = h)) ∧
  ∀ s t : State, step s = .next t → s.hs = .failed → t.hs ≠ .failed →
    ∃ rest, s.port = .command [0x3F] :: rest ∨ s.port = .resetInput :: rest

/-- R148, R163, R165, R169, R173: what IPWRAP builds, IPUNWRAP under the same secret gives back: the frame's length as consumed, the
header bytes and the payload exactly, whatever bytes follow the frame, for every frame with no meaning of its own (neither
connect nor multicommand). -/
def Obligations.IpunwrapUndoesIpwrap : Prop :=
  ∀ (s : State) (h : WireHeader) (p : Bytes), configWf s.cfg = true → s.hs ≠ .failed →
    h.messageType ∈ [s.cfg.mtIpResponse, s.cfg.mtSerialPtResponse, s.cfg.mtIpRequest, s.cfg.mtSerialPtRequest] →
    h.command ≠ s.cfg.cmdConnect → h.command ≠ s.cfg.cmdMulticommand →
    p.length ≤ (if clearPayload s.cfg h.messageType h.command h.subCommand = true then 65519 else 65504) →
    ∃ frame : Bytes,
      exec (.ipwrap [h.messageType, h.flags, h.command, h.subCommand] p) s =
        .next (s.answered (responsePacket 0x00 [frame])) ∧
      ∀ after : Bytes, exec (.ipunwrap (frame ++ after)) s =
        .next (s.answered (responsePacket 0x00
          [[BitVec.ofNat 8 frame.length, BitVec.ofNat 8 (frame.length / 256)],
           [h.messageType, h.flags, h.command, h.subCommand], p]))

/-! ### The assembler -/

/-- R71: each pseudo-instruction is exactly one IPWRAP; WRAPMC's payload splits back into its segments, and a segment longer than
255 bytes rejects the line; FRAME appends the byte CKG would compute. -/
def Obligations.PseudoInstructions : Prop :=
  ∀ (cfg : Config) (p : Bytes) (segs : List Bytes),
    wrapPt cfg p = .ipwrap [cfg.mtSerialPtRequest, 0x00, cfg.cmdPassthrough, 0x00] p ∧
    wrapPtr cfg p = .ipwrap [cfg.mtSerialPtResponse, 0x00, cfg.cmdPassthrough, 0x00] p ∧
    ((∀ g ∈ segs, g.length ≤ 255) →
      wrapMc cfg segs = some (.ipwrap [cfg.mtIpRequest, 0x00, cfg.cmdMulticommand, 0x00] (joinSegments segs)) ∧
      split (joinSegments segs) = some segs) ∧
    ((∃ g ∈ segs, 255 < g.length) → wrapMc cfg segs = none) ∧
    frameLiteral p = p ++ [BitVec.ofNat 8 ((p.map BitVec.toNat).sum % 256)]
end

