-- ==== Sys2Proof/Laws/Bytes.lean ====
section
/-! SUPPORT. The little-endian fields and padding lengths: their sizes, and that reading undoes writing. -/

namespace Sys2Proof.Machine

@[simp] theorem lowByte_toNat (n : Nat) : (lowByte n).toNat = n % 256 := by
  simp [lowByte]

@[simp] theorem le16_length (n : Nat) : (le16 n).length = 2 := rfl

@[simp] theorem le32_length (n : Nat) : (le32 n).length = 4 := rfl

theorem u16_eq (lo hi : Byte) : u16 lo hi = lo.toNat + 256 * hi.toNat := by
  have h : lo.toNat < 2 ^ 8 := lo.isLt
  rw [u16, Nat.lor_comm, Nat.shiftLeft_eq, Nat.mul_comm, ← Nat.two_pow_add_eq_or_of_lt h]
  omega

/-- A 16-bit field reads back, whatever number was written, modulo 65536. -/
theorem u16_le16 (n : Nat) : u16 (lowByte n) (lowByte (n >>> 8)) = n % 65536 := by
  rw [u16_eq, lowByte_toNat, lowByte_toNat, Nat.shiftRight_eq_div_pow]
  omega

theorem u16_lt (lo hi : Byte) : u16 lo hi < 65536 := by
  rw [u16_eq]
  have := lo.isLt
  have := hi.isLt
  omega

/-- The two bytes are the field of the number they read as. -/
theorem le16_u16 (lo hi : Byte) : le16 (u16 lo hi) = [lo, hi] := by
  have hl := lo.isLt
  have hh := hi.isLt
  rw [u16_eq, le16, lowByte, lowByte, Nat.shiftRight_eq_div_pow]
  congr 1
  · apply BitVec.eq_of_toNat_eq
    simp
    omega
  · congr 1
    apply BitVec.eq_of_toNat_eq
    simp
    omega

theorem le_pad16 (n : Nat) : n ≤ pad16 n := by
  unfold pad16
  omega

theorem pad16_mod (n : Nat) : pad16 n % 16 = 0 := by
  simp [pad16]

theorem pad16_of_mod {n : Nat} (h : n % 16 = 0) : pad16 n = n := by
  unfold pad16
  omega

theorem byteSum_append (a b : Bytes) : byteSum (a ++ b) = byteSum a + byteSum b := by
  simp [byteSum]

theorem slice_length (s : Bytes) (a b : Nat) : (slice s a b).length = min b s.length - a := by
  simp [slice]

/-- `s[a:b]`, taken from position a on. -/
theorem slice_eq_take_drop (s : Bytes) (a b : Nat) : slice s a b = (s.drop a).take (b - a) := by
  simp [slice, List.drop_take]

end Sys2Proof.Machine
end

