-- ==== Sys2Proof/Laws/State.lean ====
section
/-! SUPPORT. The field of each state update, so that no later proof unfolds a record update. -/

namespace Sys2Proof.Machine

variable (s : State) (b k : Bytes) (h : HandshakeState) (p : List Input) (r : Response)

@[simp] theorem setBuf_cfg : (s.setBuf b).cfg = s.cfg := rfl
@[simp] theorem setBuf_buf : (s.setBuf b).buf = b := rfl
@[simp] theorem setBuf_hs : (s.setBuf b).hs = s.hs := rfl
@[simp] theorem setBuf_sec : (s.setBuf b).sec = s.sec := rfl
@[simp] theorem setBuf_port : (s.setBuf b).port = s.port := rfl
@[simp] theorem setBuf_responses : (s.setBuf b).responses = s.responses := rfl

@[simp] theorem setHs_cfg : (s.setHs h).cfg = s.cfg := rfl
@[simp] theorem setHs_buf : (s.setHs h).buf = s.buf := rfl
@[simp] theorem setHs_hs : (s.setHs h).hs = h := rfl
@[simp] theorem setHs_sec : (s.setHs h).sec = s.sec := rfl
@[simp] theorem setHs_port : (s.setHs h).port = s.port := rfl
@[simp] theorem setHs_responses : (s.setHs h).responses = s.responses := rfl

@[simp] theorem setSec_cfg : (s.setSec k).cfg = s.cfg := rfl
@[simp] theorem setSec_buf : (s.setSec k).buf = s.buf := rfl
@[simp] theorem setSec_hs : (s.setSec k).hs = s.hs := rfl
@[simp] theorem setSec_sec : (s.setSec k).sec = k := rfl
@[simp] theorem setSec_port : (s.setSec k).port = s.port := rfl
@[simp] theorem setSec_responses : (s.setSec k).responses = s.responses := rfl

@[simp] theorem setPort_cfg : (s.setPort p).cfg = s.cfg := rfl
@[simp] theorem setPort_buf : (s.setPort p).buf = s.buf := rfl
@[simp] theorem setPort_hs : (s.setPort p).hs = s.hs := rfl
@[simp] theorem setPort_sec : (s.setPort p).sec = s.sec := rfl
@[simp] theorem setPort_port : (s.setPort p).port = p := rfl
@[simp] theorem setPort_responses : (s.setPort p).responses = s.responses := rfl

@[simp] theorem respond_cfg : (s.respond r).cfg = s.cfg := rfl
@[simp] theorem respond_buf : (s.respond r).buf = s.buf := rfl
@[simp] theorem respond_hs : (s.respond r).hs = s.hs := rfl
@[simp] theorem respond_sec : (s.respond r).sec = s.sec := rfl
@[simp] theorem respond_port : (s.respond r).port = s.port := rfl
@[simp] theorem respond_responses : (s.respond r).responses = s.responses ++ [r.encode] := rfl

@[simp] theorem disconnect_cfg : s.disconnect.cfg = s.cfg := rfl
@[simp] theorem disconnect_buf : s.disconnect.buf = [] := rfl
@[simp] theorem disconnect_hs : s.disconnect.hs = .disconnected := rfl
@[simp] theorem disconnect_sec : s.disconnect.sec = s.cfg.cfgPw := rfl
@[simp] theorem disconnect_port : s.disconnect.port = s.port := rfl
@[simp] theorem disconnect_responses : s.disconnect.responses = s.responses := rfl

@[simp] theorem failSession_cfg : s.failSession.cfg = s.cfg := rfl
@[simp] theorem failSession_buf : s.failSession.buf = s.buf := rfl
@[simp] theorem failSession_hs : s.failSession.hs = .failed := rfl
@[simp] theorem failSession_sec : s.failSession.sec = s.sec := rfl
@[simp] theorem failSession_port : s.failSession.port = s.port := rfl
@[simp] theorem failSession_responses : s.failSession.responses = s.responses := rfl

@[simp] theorem installKey_cfg : (s.installKey k).cfg = s.cfg := rfl
@[simp] theorem installKey_buf : (s.installKey k).buf = s.buf := rfl
@[simp] theorem installKey_hs : (s.installKey k).hs = .established := rfl
@[simp] theorem installKey_sec : (s.installKey k).sec = k := rfl
@[simp] theorem installKey_port : (s.installKey k).port = s.port := rfl
@[simp] theorem installKey_responses : (s.installKey k).responses = s.responses := rfl

/-- The reset operation leaves the reset values of the same configuration (R231). -/
theorem disconnect_eq_reset :
    s.disconnect = { State.resetWith s.cfg with port := s.port, responses := s.responses } := rfl

end Sys2Proof.Machine
end

