-- ==== Sys2Proof/Laws/Ops.lean ====
section
/-! SUPPORT. What each shared operation on the state can do. -/

namespace Sys2Proof.Machine

/-- A reply always answers, with the state it is given and one more response. -/
theorem reply_eq_next (s : State) (st : Status) (fields : List Bytes) :
    reply s st fields = .next (s.respond ⟨st, fields⟩) := rfl

theorem reply_next_iff {s t : State} {st : Status} {fields : List Bytes} :
    reply s st fields = .next t ↔ t = s.respond ⟨st, fields⟩ := by
  rw [reply_eq_next, Host.Outcome.next.injEq, eq_comm]

theorem replyUndecoded_eq_next (s : State) (e : DecodeError) :
    replyUndecoded s e = .next (s.respond ⟨decodeErrorStatus e, []⟩) := rfl

/-- A packet that does not decode is answered ILLEGAL_OPCODE or BAD_PACKET. -/
theorem decodeErrorStatus_cases (e : DecodeError) :
    e = .illegalOpcode ∧ decodeErrorStatus e = .illegalOpcode ∨ e ≠ .illegalOpcode ∧ decodeErrorStatus e = .badPacket := by
  cases e <;> simp [decodeErrorStatus]

/-- Within BUF_CAP: unbounded, or not exceeded. -/
theorem overCapacity_eq_false_iff (s : State) (n : Nat) :
    s.overCapacity n = false ↔ ∀ cap, s.cfg.bufCap = some cap → s.buf.length + n ≤ cap := by
  unfold State.overCapacity
  cases h : s.cfg.bufCap <;> simp

@[simp] theorem Response.encode_mk (st : Status) (fields : List Bytes) :
    (Response.mk st fields).encode = st.code :: fields.flatMap lengthPrefixed := rfl

/-- The nine codes of R64 are distinct: a code names its status. -/
theorem Status.ofByte_code (st : Status) : Status.ofByte st.code = some st := by
  cases st <;> decide

end Sys2Proof.Machine
end

