-- ==== Sys2Proof/Laws/Cipher.lean ====
section
/-! SUPPORT. The sizes of the cipher's values, and that loading and storing undo each other. -/

namespace Sys2Proof.Machine

@[simp] theorem Quad.bytes_length (q : Quad) : q.bytes.length = 4 := rfl

@[simp] theorem store_length (m : Matrix) : (store m).length = 16 := rfl

/-- R138: the stored state loads back. -/
@[simp] theorem load_store (m : Matrix) : load (store m) = m := rfl

/-- R138: a loaded block is stored back. -/
theorem store_load {x : Bytes} (h : x.length = 16) : store (load x) = x := by
  match x, h with
  | [_, _, _, _, _, _, _, _, _, _, _, _, _, _, _, _], _ => rfl

@[simp] theorem encBlock_length (w : List Quad) (x : Bytes) : (encBlock w x).length = 16 := rfl

@[simp] theorem decBlock_length (w : List Quad) (y : Bytes) : (decBlock w y).length = 16 := rfl

theorem padMessage_length (m : Bytes) : (padMessage m).length = pad16 m.length := by
  have := le_pad16 m.length
  simp [padMessage]
  omega

/-- R131: the key of a password that has one is 32 bytes. -/
theorem formKey_length {p : Bytes} (h : hasKey p = true) : (formKey p).length = 32 := by
  have hl : p.length ≤ 32 := of_decide_eq_true h
  simp [formKey, keyLen]
  omega

@[simp] theorem takeBlocks_length (n : Nat) (m : Bytes) : (takeBlocks n m).length = n := by
  induction n generalizing m with
  | zero => rfl
  | succ n ih => simp [takeBlocks, ih]

/-- A whole message is its blocks. -/
theorem takeBlocks_flatten {n : Nat} {m : Bytes} (h : m.length = 16 * n) : (takeBlocks n m).flatten = m := by
  induction n generalizing m with
  | zero => simpa [takeBlocks] using h
  | succ n ih =>
    simp only [takeBlocks, blockLen, List.flatten_cons]
    rw [ih (by simp; omega), List.take_append_drop]

/-- Each block of a whole message is 16 bytes. -/
theorem length_of_mem_takeBlocks {n : Nat} {m x : Bytes} (h : m.length = 16 * n) (hx : x ∈ takeBlocks n m) :
    x.length = 16 := by
  induction n generalizing m with
  | zero => simp [takeBlocks] at hx
  | succ n ih =>
    simp only [takeBlocks, blockLen, List.mem_cons] at hx
    rcases hx with rfl | hx
    · simp
      omega
    · exact ih (by simp; omega) hx

end Sys2Proof.Machine
end

