-- ==== Sys2Proof/Laws/Codec.lean ====
section
/-! SUPPORT. What the codec's shared operations can do. -/

namespace Sys2Proof.Machine

@[simp] theorem buildHeader_length (cfg : Config) (n : Nat) (h : WireHeader) : (buildHeader cfg n h).length = 16 := by
  simp [buildHeader, hdrLen]

@[simp] theorem WireHeader.bytes_length (h : WireHeader) : h.bytes.length = 4 := rfl

/-- R65: the header operand is exactly four bytes. -/
theorem headerOperand_eq_some_iff {hdr : Bytes} {h : WireHeader} : headerOperand hdr = some h ↔ hdr = h.bytes := by
  constructor
  · intro e
    unfold headerOperand at e
    split at e
    · cases e
      rfl
    · cases e
  · rintro rfl
    rfl

/-- R167: the authorization test reads the high nibble. -/
theorem authMask_eq_iff (b : Byte) : b &&& authMask = authVal ↔ b.toNat / 16 = 1 := by
  revert b
  decide +kernel

/-- R168: the key slice is 16 bytes iff the payload has at least 17. -/
theorem keySlice_length_iff (pl : Bytes) : (slice pl keySliceLo keySliceHi).length = sessionKeyLen ↔ 17 ≤ pl.length := by
  rw [slice_length]
  show min 17 pl.length - 1 = 16 ↔ _
  omega

theorem keySlice_eq (pl : Bytes) : slice pl keySliceLo keySliceHi = (pl.drop 1).take 16 := by
  simp [slice, List.drop_take]

/-- R162: the connect checks fail on a frame that fails the session, change nothing, or (only in AwaitingConnectAck, on a
key response) install the 16-byte key. -/
theorem connectCheck_cases (s : State) (h : WireHeader) (pl : Bytes) :
    (connectCheck s h pl = none ∧ FailsSession s.cfg s.sec h pl) ∨ connectCheck s h pl = some s ∨
    (s.hs = .awaitingConnectAck ∧ IsKeyResponse s.cfg h ∧ 17 ≤ pl.length ∧
      connectCheck s h pl = some (s.installKey ((pl.drop 1).take 16))) := by
  unfold connectCheck
  simp only [ne_eq, keySlice_length_iff, authMask_eq_iff]
  simp only [keySlice_eq]
  by_cases hc : h.command = s.cfg.cmdConnect
  swap
  · simp [hc]
  rw [if_neg (not_not_intro hc)]
  split
  · next hr =>
    split
    · simp
    · next hp => exact .inl ⟨rfl, .inr (.inr ⟨⟨hr.1, hc, hr.2⟩, hp⟩)⟩
  · split
    · next hr =>
      split
      · simp
      · next hp => exact .inl ⟨rfl, .inr (.inl ⟨⟨hr.1, hc, hr.2⟩, by tauto⟩)⟩
    · next hr =>
      split
      · next hm =>
        have hk : IsKeyResponse s.cfg h := ⟨hm, hc, fun h3 => hr ⟨hm, h3⟩⟩
        split
        · next hl => exact .inl ⟨rfl, .inl ⟨hk, by omega⟩⟩
        · next hl =>
          split
          · next ha => exact .inr (.inr ⟨ha, hk, by omega, rfl⟩)
          · simp
      · simp

/-- R165: the four checks before the connect checks pass exactly on a whole frame. -/
theorem wholeFrame_of_checks {cfg : Config} {wire : Bytes} (h16 : ¬ wire.length < hdrLen)
    (hm : ¬ wire.getD 0 0x00 ≠ magic) (hp : ¬ wire.length < frameEnd cfg wire)
    (hk : ¬ (!knownMessageType cfg (parseHeader cfg wire).messageType) = true) : WholeFrame cfg wire :=
  have hk' : knownMessageType cfg (parseHeader cfg wire).messageType = true := by
    simpa only [Bool.not_eq_true', Bool.not_eq_false] using hk
  ⟨by simpa using h16, by simpa using hm, by omega, List.contains_iff_mem.mp hk'⟩

/-- R162, R165: all that an IPUNWRAP can do: answer and leave the state, fail the session, or install the key. -/
theorem execIpunwrap_cases (wire : Bytes) (s : State) :
    ∃ (s' : State) (st : Status) (fields : List Bytes), execIpunwrap wire s = .next (s'.respond ⟨st, fields⟩) ∧
      ((s' = s ∧ st ≠ .authError) ∨
      (s.hs ≠ .failed ∧ WholeFrame s.cfg wire ∧ FailsSession s.cfg s.sec (parseHeader s.cfg wire) (framePayload s wire) ∧
        s' = s.failSession ∧ st = .authError) ∨
      (s.hs = .awaitingConnectAck ∧ WholeFrame s.cfg wire ∧ IsKeyResponse s.cfg (parseHeader s.cfg wire) ∧
        17 ≤ (framePayload s wire).length ∧ s' = s.installKey (((framePayload s wire).drop 1).take 16) ∧
        (s.cfg.cmdConnect ≠ s.cfg.cmdMulticommand → st = .ok))) := by
  unfold execIpunwrap
  split
  · exact ⟨s, _, _, rfl, .inl ⟨rfl, by simp⟩⟩
  next hf =>
  split
  · exact ⟨s, _, _, rfl, .inl ⟨rfl, by simp⟩⟩
  next h16 =>
  split
  · exact ⟨s, _, _, rfl, .inl ⟨rfl, by simp⟩⟩
  next hm =>
  split
  · exact ⟨s, _, _, rfl, .inl ⟨rfl, by simp⟩⟩
  next hp =>
  split
  · exact ⟨s, _, _, rfl, .inl ⟨rfl, by simp⟩⟩
  next hk =>
  have hw := wholeFrame_of_checks h16 hm hp hk
  rcases connectCheck_cases s (parseHeader s.cfg wire) (framePayload s wire) with ⟨h, hfail⟩ | h | ⟨ha, hkey, h17, h⟩ <;>
    simp only [h]
  · exact ⟨s.failSession, _, _, rfl, .inr (.inl ⟨hf, hw, hfail, rfl, rfl⟩)⟩
  · split <;> exact ⟨s, _, _, rfl, .inl ⟨rfl, by simp⟩⟩
  · split
    · next hs =>
      refine ⟨_, _, _, rfl, .inr (.inr ⟨ha, hw, hkey, h17, rfl, fun hne => ?_⟩)⟩
      simp [frameSegments, hkey.command, hne] at hs
    · exact ⟨_, _, _, rfl, .inr (.inr ⟨ha, hw, hkey, h17, rfl, fun _ => rfl⟩)⟩

/-- R170: a length byte, its segment, and the rest of the payload. -/
theorem splitLoop_cons {fuel : Nat} {g rest : Bytes} (h : g.length ≤ 255) :
    splitLoop (fuel + 1) (lowByte g.length :: (g ++ rest)) = (splitLoop fuel rest).map (g :: ·) := by
  have hn : g.length % 256 = g.length := by omega
  simp [splitLoop, hn]

end Sys2Proof.Machine
end

