-- ==== Sys2Proof/Laws/Encoding.lean ====
section
/-! SUPPORT. The opcode map and the operand loop. -/

namespace Sys2Proof

open Sys2Proof.Machine

/-- The 14 opcode bytes are distinct: a code names its row. -/
theorem Opcode.ofByte_code (o : Opcode) : Opcode.ofByte o.code = some o := by
  cases o <;> decide

/-- A byte that names a row is that row's code. -/
theorem Opcode.code_of_ofByte {b : Byte} {o : Opcode} (h : Opcode.ofByte b = some o) : o.code = b := by
  simpa using List.find?_some h

theorem Opcode.mem_all (o : Opcode) : o ∈ Opcode.all := by
  cases o <;> decide

/-- A command has as many operands as its row says. -/
theorem Instr.operands_length (i : Instr) : i.operands.length = i.opcode.operandCount := by
  cases i <;> rfl

/-- A command is built from its row and its operands. -/
theorem Opcode.build_operands (i : Instr) : i.opcode.build i.operands = i := by
  cases i <;> rfl

@[simp] theorem lengthPrefixed_length (b : Bytes) : (lengthPrefixed b).length = b.length + 2 := by
  simp [lengthPrefixed]
  omega

/-- One operand in front: its length word, its bytes, and the rest of the packet. -/
theorem takeOperands_cons {b : Bytes} (h : b.length ≤ 65535) (n : Nat) (rest : Bytes) :
    takeOperands (n + 1) (lengthPrefixed b ++ rest) =
      match takeOperands n rest with
      | .ok ops => .ok (b :: ops)
      | .error e => .error e := by
  have hu : u16 (lowByte b.length) (lowByte (b.length >>> 8)) = b.length := by
    rw [u16_le16]
    omega
  cases h : takeOperands n rest <;> simp [lengthPrefixed, le16, takeOperands, hu, h]

end Sys2Proof
end

