-- ==== Sys2Proof/Laws/Framer.lean ====
section
/-! SUPPORT. What one pass of the scan can do, and that the loop's bound does not matter. -/

namespace Sys2Proof.Machine

theorem cand_le (b : Bytes) : cand b ≤ 255 := by
  unfold cand
  split
  · omega
  · have := (b.getD 1 0).isLt
    omega

/-- R112: every way a pass ends. -/
theorem scanPass_cases (b : Bytes) :
    (scanPass b = .stop ∧
      (b.length < 37 ∨ checksum (b.take 37) = false ∧ 37 ≤ cand b ∧ cand b ≤ 71)) ∨
    (∃ n, scanPass b = .emit (b.take n) (b.drop n) ∧ 4 ≤ n ∧ n ≤ b.length ∧ n ≤ 255 ∧ checksum (b.take n) = true) ∨
    (scanPass b = .drop (b.drop 1) ∧ 37 ≤ b.length) := by
  have hc := cand_le b
  generalize hp : scanPass b = pass
  simp only [scanPass, minFrame, legacyLen, waitLo, waitHi] at hp
  split at hp
  · exact .inl ⟨hp.symm, .inl (by omega)⟩
  · split at hp
    · next h => exact .inr (.inl ⟨cand b, hp.symm, h.1, h.2.1, hc, h.2.2⟩)
    · split at hp
      · split at hp
        · next h37 hk => exact .inr (.inl ⟨37, hp.symm, by omega, h37, by omega, hk⟩)
        · split at hp
          · next hk hw => exact .inl ⟨hp.symm, .inr ⟨by simpa using hk, hw⟩⟩
          · next h37 _ _ => exact .inr (.inr ⟨hp.symm, h37⟩)
      · exact .inl ⟨hp.symm, .inl (by omega)⟩

/-- An emitted frame and what is left are the buffer; the frame is checksum-valid. -/
theorem scanPass_emit {b frame rest : Bytes} (h : scanPass b = .emit frame rest) :
    frame ++ rest = b ∧ 4 ≤ frame.length ∧ frame.length ≤ 255 ∧ checksum frame = true := by
  rcases scanPass_cases b with ⟨h', _⟩ | ⟨n, h', h4, hl, h255, hk⟩ | ⟨h', _⟩ <;> rw [h'] at h
  · cases h
  · cases h
    exact ⟨List.take_append_drop n b, by simp; omega, by simp; omega, hk⟩
  · cases h

/-- A dropped byte is the buffer's first, and 37 bytes were there. -/
theorem scanPass_drop {b rest : Bytes} (h : scanPass b = .drop rest) : rest = b.drop 1 ∧ 37 ≤ b.length := by
  rcases scanPass_cases b with ⟨h', _⟩ | ⟨n, h', _⟩ | ⟨h', hl⟩ <;> rw [h'] at h
  · cases h
  · cases h
  · cases h
    exact ⟨rfl, hl⟩

/-- More passes than bytes change nothing: the loop has stopped by then. -/
theorem scanLoop_of_length_le {b : Bytes} {n m : Nat} (hn : b.length ≤ n) (hm : b.length ≤ m) :
    scanLoop n b = scanLoop m b := by
  induction n generalizing b m with
  | zero =>
    obtain rfl : b = [] := List.eq_nil_of_length_eq_zero (by omega)
    cases m <;> simp [scanLoop, scanPass, minFrame]
  | succ n ih =>
    cases m with
    | zero =>
      obtain rfl : b = [] := List.eq_nil_of_length_eq_zero (by omega)
      simp [scanLoop, scanPass, minFrame]
    | succ m =>
      simp only [scanLoop]
      cases h : scanPass b with
      | stop => rfl
      | emit frame rest =>
        have hb := scanPass_emit h
        have hl := congrArg List.length hb.1
        rw [List.length_append] at hl
        simp only [ih (b := rest) (m := m) (by omega) (by omega)]
      | drop rest =>
        obtain ⟨rfl, hb⟩ := scanPass_drop h
        exact ih (by simp; omega) (by simp; omega)

/-- The buffer itself is the first the scan looks at. -/
theorem mem_frontBuffers_self (n : Nat) (b : Bytes) : b ∈ frontBuffers n b := by
  cases n <;> simp [frontBuffers]

/-- More passes than bytes look at nothing more. -/
theorem frontBuffers_of_length_le {b : Bytes} {n m : Nat} (hn : b.length ≤ n) (hm : b.length ≤ m) :
    frontBuffers n b = frontBuffers m b := by
  induction n generalizing b m with
  | zero =>
    obtain rfl : b = [] := List.eq_nil_of_length_eq_zero (by omega)
    cases m <;> simp [frontBuffers, scanPass, minFrame]
  | succ n ih =>
    cases m with
    | zero =>
      obtain rfl : b = [] := List.eq_nil_of_length_eq_zero (by omega)
      simp [frontBuffers, scanPass, minFrame]
    | succ m =>
      simp only [frontBuffers]
      cases h : scanPass b with
      | stop => rfl
      | emit frame rest =>
        have hb := scanPass_emit h
        have hl := congrArg List.length hb.1
        rw [List.length_append] at hl
        simp only [ih (b := rest) (m := m) (by omega) (by omega)]
      | drop rest =>
        obtain ⟨rfl, hb⟩ := scanPass_drop h
        simp only [ih (b := b.drop 1) (m := m) (by simp; omega) (by simp; omega)]

end Sys2Proof.Machine
end

