-- ==== Sys2Proof/Laws/PerInstr.lean ====
section
/-! SUPPORT. R60, for every command: its packet is `1 + sum over i of (2 + LEN_i)` bytes long and begins with its opcode. -/

namespace Sys2Proof.Laws

/-- R60: the packet's length and its byte 0. -/
def PacketLength.Statement (i : Instr) : Prop :=
  (encode i).length = 1 + (i.operands.map fun b => 2 + b.length).sum ∧ (encode i).head? = some i.opcode.code

theorem PacketLength.nop : PacketLength.Statement .nop := by
  simp [Statement, encode, Instr.operands]

theorem PacketLength.ckv (frame : Bytes) : PacketLength.Statement (.ckv frame) := by
  simp [Statement, encode, Instr.operands]
  omega

theorem PacketLength.ckg (body : Bytes) : PacketLength.Statement (.ckg body) := by
  simp [Statement, encode, Instr.operands]
  omega

theorem PacketLength.feed (arrived : Bytes) : PacketLength.Statement (.feed arrived) := by
  simp [Statement, encode, Instr.operands]
  omega

theorem PacketLength.flush : PacketLength.Statement .flush := by
  simp [Statement, encode, Instr.operands]

theorem PacketLength.ksched (password : Bytes) : PacketLength.Statement (.ksched password) := by
  simp [Statement, encode, Instr.operands]
  omega

theorem PacketLength.enc (plaintext password : Bytes) : PacketLength.Statement (.enc plaintext password) := by
  simp [Statement, encode, Instr.operands]
  omega

theorem PacketLength.dec (ciphertext password : Bytes) : PacketLength.Statement (.dec ciphertext password) := by
  simp [Statement, encode, Instr.operands]
  omega

theorem PacketLength.ipwrap (hdr payload : Bytes) : PacketLength.Statement (.ipwrap hdr payload) := by
  simp [Statement, encode, Instr.operands]
  omega

theorem PacketLength.ipunwrap (wire : Bytes) : PacketLength.Statement (.ipunwrap wire) := by
  simp [Statement, encode, Instr.operands]
  omega

theorem PacketLength.hsconn : PacketLength.Statement .hsconn := by
  simp [Statement, encode, Instr.operands]

theorem PacketLength.msplit (payload : Bytes) : PacketLength.Statement (.msplit payload) := by
  simp [Statement, encode, Instr.operands]
  omega

theorem PacketLength.stat : PacketLength.Statement .stat := by
  simp [Statement, encode, Instr.operands]

theorem PacketLength.disc : PacketLength.Statement .disc := by
  simp [Statement, encode, Instr.operands]

end Sys2Proof.Laws
end

