-- ==== Sys2Proof/Laws/Response.lean ====
section
/-! SUPPORT. A response in the terms of the claims: `reply` is `answered` with the response packet. -/

namespace Sys2Proof.Machine

theorem lengthPrefixed_eq_wireField (b : Bytes) : lengthPrefixed b = wireField b := by
  simp [lengthPrefixed, wireField, le16, lowByte, Nat.shiftRight_eq_div_pow]

theorem encode_eq_responsePacket (st : Status) (fields : List Bytes) :
    Response.encode ⟨st, fields⟩ = responsePacket st.code fields := by
  simp only [Response.encode, responsePacket, funext lengthPrefixed_eq_wireField]

theorem reply_eq_answered (s : State) (st : Status) (fields : List Bytes) :
    reply s st fields = .next (s.answered (responsePacket st.code fields)) := by
  simp only [reply, State.respond, State.answered, encode_eq_responsePacket]

/-- A response with no fields is its status byte. -/
@[simp] theorem responsePacket_nil (code : Byte) : responsePacket code [] = [code] := rfl

@[simp] theorem answered_cfg (s : State) (p : Bytes) : (s.answered p).cfg = s.cfg := rfl
@[simp] theorem answered_buf (s : State) (p : Bytes) : (s.answered p).buf = s.buf := rfl
@[simp] theorem answered_hs (s : State) (p : Bytes) : (s.answered p).hs = s.hs := rfl
@[simp] theorem answered_sec (s : State) (p : Bytes) : (s.answered p).sec = s.sec := rfl
@[simp] theorem answered_port (s : State) (p : Bytes) : (s.answered p).port = s.port := rfl
@[simp] theorem answered_responses (s : State) (p : Bytes) : (s.answered p).responses = s.responses ++ [p] := rfl

end Sys2Proof.Machine
end

