-- ==== Sys2Proof/Tests/Slice0.lean ====
section
/-! SUPPORT. Tests of this model against the spec's own vectors (95_test_vectors.md; each names its vector), the smoke test of WellFormed,
and for every statement with hypotheses a concrete state and operands that meet them all. -/

namespace Sys2Proof.Tests

open Sys2Proof.Machine

set_option maxRecDepth 20000

/-- The state a step or a command leaves, if it leaves one. -/
def after : Host.Outcome State Fault Refusal → Option State
  | .next t => some t
  | _ => none

/-- The reset instance in another handshake state, with another secret. -/
def session (hs : HandshakeState) (sec : Bytes) : State :=
  { State.reset with hs := hs, sec := sec }

/-- The reset instance with the packet delivered. -/
def given (packet : Bytes) : State :=
  State.reset.setPort [.command packet]

/-- The responses after one step. -/
def answers (s : State) : Option (List Bytes) :=
  (after (step s)).map (·.responses)

/-- What one step leaves of the three elements. -/
def elements (o : Host.Outcome State Fault Refusal) : Option (Bytes × HandshakeState × Bytes) :=
  (after o).map fun t => (t.buf, t.hs, t.sec)

/-- CFG_PW of the vectors, "test123456". -/
def pw : Bytes := [0x74, 0x65, 0x73, 0x74, 0x31, 0x32, 0x33, 0x34, 0x35, 0x36]

/-- KEY of the vectors, "SessionKey123456". -/
def key : Bytes := [0x53, 0x65, 0x73, 0x73, 0x69, 0x6F, 0x6E, 0x4B, 0x65, 0x79, 0x31, 0x32, 0x33, 0x34, 0x35, 0x36]

/-- VF of the vectors. -/
def vf : Bytes := [0xE2, 0x06, 0x01, 0x02, 0x03, 0xEE]

/-- The header of a connect frame of the default configuration with nine filler bytes. -/
def connectHdr (len mt sub : Byte) : Bytes :=
  [0xAA, len, 0x00, mt, 0x00, 0xF0, sub] ++ List.replicate 9 0xEE

/-- IP3's key response. -/
def keyWire : Bytes := connectHdr 0x13 0x01 0x00 ++ [0x10] ++ key ++ [0x01, 0x02]

/-- IP4's wire frame, VF as a passthrough request under KEY. -/
def passWire : Bytes :=
  [0xAA, 0x06, 0x00, 0x04, 0x00, 0x00, 0x00] ++ List.replicate 9 0xEE ++
    [0x6B, 0xDA, 0x35, 0xAA, 0x40, 0xF6, 0x72, 0x00, 0x35, 0x2B, 0xD9, 0xD3, 0x8E, 0x8A, 0x46, 0xF3]

/-- IP6's multicommand frame under KEY. -/
def multiWire : Bytes :=
  [0xAA, 0x07, 0x00, 0x01, 0x00, 0xF8, 0x00] ++ List.replicate 9 0xEE ++
    [0xC3, 0xAF, 0x32, 0x85, 0x05, 0xE0, 0x23, 0x0E, 0x7B, 0xA0, 0x4F, 0xB1, 0x51, 0xC7, 0x35, 0xF1]

/-- IP7's overrunning multicommand frame under KEY. -/
def overrunWire : Bytes :=
  [0xAA, 0x03, 0x00, 0x01, 0x00, 0xF8, 0x00] ++ List.replicate 9 0xEE ++
    [0xE4, 0xC2, 0x10, 0xEC, 0x24, 0xDF, 0xE7, 0xBA, 0x82, 0x33, 0x42, 0xDA, 0x64, 0x32, 0x56, 0x86]

/-- W of S4: 64 bytes that wedge the framer. -/
def wedge : Bytes := [0x52, 0x40] ++ (List.range' 2 62).map (BitVec.ofNat 8)

/-! ### WellFormed refuses an operand no 16-bit length describes (R60) -/

theorem fieldFits_replicate (n : Nat) : fieldFits (List.replicate n 0x00) = decide (n ≤ 65535) := by
  simp [fieldFits]

theorem wf_ckv (b : Bytes) : (Instr.ckv b).wf = fieldFits b := by
  simp [Instr.wf, Instr.operands]

theorem wf_ipwrap (b : Bytes) : (Instr.ipwrap [] b).wf = fieldFits b := by
  simp [Instr.wf, Instr.operands, fieldFits]

theorem test_wf_accepts_65535 : (Instr.ckv (List.replicate 65535 0x00)).wf = true := by
  rw [wf_ckv, fieldFits_replicate]
  decide

theorem test_wf_refuses_first_operand : (Instr.ckv (List.replicate 65536 0x00)).wf = false := by
  rw [wf_ckv, fieldFits_replicate]
  decide

theorem test_wf_refuses_second_operand : (Instr.ipwrap [] (List.replicate 65536 0x00)).wf = false := by
  rw [wf_ipwrap, fieldFits_replicate]
  decide

/-! ### Packets written out from R60 and R63 -/

theorem test_decode_nop : decode [0x00] = .ok .nop := by decide
theorem test_decode_ckv : decode [0x01, 0x04, 0x00, 0x01, 0x02, 0x03, 0x06] = .ok (.ckv [0x01, 0x02, 0x03, 0x06]) := by
  decide
theorem test_decode_ckg : decode [0x02, 0x02, 0x00, 0x01, 0x02] = .ok (.ckg [0x01, 0x02]) := by decide
theorem test_decode_feed : decode [0x10, 0x03, 0x00, 0xE2, 0x06, 0x01] = .ok (.feed [0xE2, 0x06, 0x01]) := by decide
theorem test_decode_flush : decode [0x11] = .ok .flush := by decide
theorem test_decode_ksched : decode [0x20, 0x01, 0x00, 0x6B] = .ok (.ksched [0x6B]) := by decide
theorem test_decode_enc :
    decode [0x21, 0x01, 0x00, 0x41, 0x02, 0x00, 0x6B, 0x65] = .ok (.enc [0x41] [0x6B, 0x65]) := by decide
theorem test_decode_dec : decode [0x22, 0x00, 0x00, 0x01, 0x00, 0x6B] = .ok (.dec [] [0x6B]) := by decide
theorem test_decode_ipwrap :
    decode [0x30, 0x04, 0x00, 0x04, 0x00, 0x00, 0x01, 0x00, 0x00] = .ok (.ipwrap [0x04, 0x00, 0x00, 0x01] []) := by decide
theorem test_decode_ipunwrap : decode [0x31, 0x01, 0x00, 0xAA] = .ok (.ipunwrap [0xAA]) := by decide
theorem test_decode_hsconn : decode [0x32] = .ok .hsconn := by decide
theorem test_decode_msplit : decode [0x33, 0x02, 0x00, 0x01, 0x7A] = .ok (.msplit [0x01, 0x7A]) := by decide
theorem test_decode_stat : decode [0x3E] = .ok .stat := by decide
theorem test_decode_disc : decode [0x3F] = .ok .disc := by decide

/-- R60: the length word's high byte counts 256. -/
theorem test_decode_long_operand :
    decode ([0x02, 0x01, 0x01] ++ List.replicate 257 0x07) = .ok (.ckg (List.replicate 257 0x07)) := by decide

/-- E1 to E8, N2: the rejections of R61. -/
theorem test_decode_rejects :
    decode [] = .error .emptyPacket ∧ decode [0x40, 0x01] = .error .illegalOpcode ∧
    decode [0x01, 0x01] = .error .truncatedLength ∧ decode [0x01, 0x05, 0x00, 0x01] = .error .truncatedOperand ∧
    decode [0x01, 0x01, 0x00, 0xAA, 0xBB] = .error .trailingBytes ∧ decode [0x00, 0x00] = .error .trailingBytes ∧
    decode [0x21, 0x01, 0x00, 0x41] = .error .truncatedLength := by decide

/-- The opcode table's words decode to their rows, operands empty. -/
theorem test_table_words :
    decodeTableWord 8 0x00 = some .nop ∧ decodeTableWord 8 0x22 = some (.dec [] []) ∧
    decodeTableWord 8 0x3F = some .disc ∧ decodeTableWord 8 0x03 = none := by decide

/-! ### One step each, against the spec's vectors -/

/-- E2, E1: undecoded packets. -/
theorem test_step_undecoded : answers (given [0x40]) = some [[0x0F]] ∧ answers (given []) = some [[0x0E]] := by decide

/-- N1. -/
theorem test_nop : answers (given [0x00]) = some [[0x00]] := by decide

/-- K5: the sum wraps; K3: a wrong checksum. -/
theorem test_ckv :
    answers (given [0x01, 0x04, 0x00, 0xFF, 0xFF, 0xFF, 0xFD]) = some [[0x00, 0x01, 0x00, 0x01]] ∧
    answers (given [0x01, 0x04, 0x00, 0x01, 0x02, 0x03, 0x07]) = some [[0x00, 0x01, 0x00, 0x00]] := by decide

/-- S2: the length test comes first. -/
theorem test_ckv_short : answers (given [0x01, 0x03, 0x00, 0x00, 0x00, 0x00]) = some [[0x00, 0x01, 0x00, 0x00]] := by decide

/-- K13. -/
theorem test_ckg : answers (given [0x02, 0x03, 0x00, 0xFF, 0xFF, 0xFF]) = some [[0x00, 0x01, 0x00, 0xFD]] := by decide

/-- F11, second FEED: the garbage byte is dropped, VF and the rest follow (LF1 stands for any 37-byte frame). -/
theorem test_feed_resync :
    scan ([0x99] ++ vf ++ (List.replicate 37 0x00)) = ([vf, List.replicate 37 0x00], []) := by decide

/-- F13 fed 40 + 10: the 37-byte prefix is emitted, 3 bytes stay. -/
theorem test_feed_misframing :
    elements (exec (.feed ([0x52, 0x32] ++ List.replicate 34 0x01 ++ [0xA6, 0x02, 0x02, 0x02])) State.reset) =
      some ([0x02, 0x02, 0x02], .disconnected, pw) := by decide

/-- F9: the buffer is emptied. -/
theorem test_flush : elements (exec .flush (State.reset.setBuf wedge)) = some ([], .disconnected, pw) := by decide

/-- CP15: w[59] of KSCHED "test123456" is the response's end. -/
theorem test_ksched :
    (answers (given (encode (.ksched pw)))).map (fun r => r.map fun p => (p.take 3, p.drop 239)) =
      some [([0x00, 0xF0, 0x00], [0xDB, 0x9C, 0x5E, 0x05])] := by decide

/-- CP11: a 33-byte password. -/
theorem test_ksched_long : answers (given (encode (.ksched (List.replicate 33 0x41)))) = some [[0x04]] := by decide

/-- S1's first block, the source's own vector. -/
theorem test_enc :
    answers (given (encode (.enc
      [0x56, 0x65, 0x72, 0x79, 0x20, 0x68, 0x61, 0x72, 0x64, 0x20, 0x74, 0x65, 0x78, 0x74, 0x20, 0x74] pw))) =
      some [[0x00, 0x10, 0x00, 0xE2, 0x14, 0x53, 0x8E, 0x57, 0x60, 0x76, 0xAA, 0x61, 0xC5, 0x3D, 0xFE, 0x90, 0x94, 0xF2, 0x97]] := by
  decide

/-- S1's second block decrypted: its padding is not stripped. -/
theorem test_dec :
    answers (given (encode (.dec
      [0xF0, 0x1F, 0x19, 0x49, 0xF1, 0xA7, 0x22, 0x68, 0xE5, 0x2A, 0xE8, 0x01, 0xD4, 0xDC, 0x7A, 0x6B] pw))) =
      some [[0x00, 0x10, 0x00, 0x6F, 0x20, 0x62, 0x65, 0x20, 0x65, 0x6E, 0x63, 0x72, 0x79, 0x70, 0x74, 0x65, 0x64, 0xEE, 0xEE]] := by
  decide

/-- CP9. -/
theorem test_dec_partial_block : answers (given (encode (.dec (List.replicate 15 0x00) pw))) = some [[0x04]] := by decide

/-- IP4. -/
theorem test_ipwrap :
    (after (exec (.ipwrap [0x04, 0x00, 0x00, 0x00] vf) (session .established key))).map (·.responses) =
      some [[0x00, 0x20, 0x00] ++ passWire] := by decide

/-- IP19. -/
theorem test_ipwrap_bad_header : answers (given (encode (.ipwrap [0x04, 0x00, 0x00] vf))) = some [[0x04]] := by decide

/-- IP3: the key is installed. -/
theorem test_ipunwrap_key_response :
    elements (exec (.ipunwrap keyWire) (session .awaitingConnectAck pw)) = some ([], .established, key) := by decide

/-- IP6: the segments follow the payload. -/
theorem test_ipunwrap_multicommand :
    (after (exec (.ipunwrap multiWire) (session .established key))).map (·.responses) =
      some [[0x00, 0x02, 0x00, 0x20, 0x00, 0x04, 0x00, 0x01, 0x00, 0xF8, 0x00, 0x07, 0x00, 0x03, 0x61, 0x62, 0x63, 0x02, 0x78,
        0x79, 0x03, 0x00, 0x61, 0x62, 0x63, 0x02, 0x00, 0x78, 0x79]] := by decide

/-- IP1. -/
theorem test_hsconn :
    answers (given [0x32]) = some [[0x00, 0x1A, 0x00] ++ connectHdr 0x0A 0x03 0x00 ++ pw] := by decide

/-- IP2: refused, not repeated. -/
theorem test_hsconn_again :
    (after (exec .hsconn (session .awaitingConnectAck pw))).map (·.responses) = some [[0x05]] := by decide

/-- S6, and R171's empty segment. -/
theorem test_msplit :
    answers (given [0x33, 0x03, 0x00, 0x00, 0x01, 0x7A]) = some [[0x00, 0x00, 0x00, 0x01, 0x00, 0x7A]] ∧
    answers (given [0x33, 0x03, 0x00, 0x03, 0x61, 0x62]) = some [[0x03]] := by decide

/-- N3. -/
theorem test_stat :
    answers (given [0x3E]) = some [[0x00, 0x01, 0x00, 0x00, 0x04, 0x00, 0x00, 0x00, 0x00, 0x00, 0x01, 0x00, 0x0A]] := by decide

/-- R192: from Failed, back to the reset values. -/
theorem test_disc :
    elements (exec .disc ((session .failed key).setBuf vf)) = some ([], .disconnected, pw) := by decide

/-- P2 line 6 in the assembler's text (R70, R71). -/
theorem test_assemble :
    assembleLine defaultConfig "WRAPMC \"abc\", \"xy\" ; two segments".toList =
      .command (.ipwrap [0x03, 0x00, 0xF8, 0x00] [0x03, 0x61, 0x62, 0x63, 0x02, 0x78, 0x79]) := by decide +kernel

/-! ### Witnesses: the hypotheses of each statement, met -/

theorem packet_of_no_command_empty (i : Instr) : encode i ≠ [] := by
  simp [encode]

theorem packet_of_no_command_illegal (i : Instr) : encode i ≠ [0x40] := by
  cases i <;> simp [encode, Instr.opcode, Opcode.code]

theorem packet_of_no_command_trailing (i : Instr) : encode i ≠ [0x00, 0x00] := by
  cases i <;> simp [encode, Instr.opcode, Opcode.code, Instr.operands]

theorem overrun_is_no_join (segs : List Bytes) (h : ∀ g ∈ segs, g.length ≤ 255) : [0x03, 0x61, 0x62] ≠ joinSegments segs := by
  intro e
  cases segs with
  | nil => simp [joinSegments] at e
  | cons g rest =>
    have hg := h g (by simp)
    have hl := congrArg List.length e
    have hh := congrArg (fun b : Bytes => (b.getD 0 0x00).toNat) e
    simp [joinSegments] at hl hh
    omega

theorem witness_DecodeEncodeRoundTrip :
    (Instr.enc [0x41] [0x6B]).wf = true ∧ (Instr.ckv (List.replicate 65535 0x00)).wf = true :=
  ⟨by decide, test_wf_accepts_65535⟩

theorem witness_EncodeDecodeRoundTrip : decode [0x21, 0x00, 0x00, 0x01, 0x00, 0x6B] = .ok (.enc [] [0x6B]) := by decide

theorem witness_UndecodedPacketsChangeNoState :
    configWf (given []).cfg = true ∧ (given []).port = .command [] :: [] ∧
    (given [0x40]).port = .command [0x40] :: [] ∧ (given [0x00, 0x00]).port = .command [0x00, 0x00] :: [] ∧
    ∀ i : Instr, i.wf = true → encode i ≠ [] ∧ encode i ≠ [0x40] ∧ encode i ≠ [0x00, 0x00] :=
  ⟨by decide, rfl, rfl, rfl, fun i _ =>
    ⟨packet_of_no_command_empty i, packet_of_no_command_illegal i, packet_of_no_command_trailing i⟩⟩

theorem witness_ResponsePacketRoundTrip :
    (∀ f ∈ [([] : Bytes), [0xAA]], f.length ≤ 65535) ∧ (List.replicate 65535 (0x00 : Byte)).length ≤ 65535 :=
  ⟨by decide, List.length_replicate.le⟩

theorem witness_StepRunsDecodedCommand :
    configWf (given [0x3E]).cfg = true ∧ (given [0x3E]).port = .command [0x3E] :: [] ∧ decode [0x3E] = .ok .stat ∧
    configWf State.reset.cfg = true ∧ State.reset.port = [] := by decide

theorem witness_ResetLeavesSpecifiedState :
    configWf ((session .failed key).setPort [.resetInput]).cfg = true ∧
    ((session .failed key).setPort [.resetInput]).port = .resetInput :: [] := by decide

/-- The default configuration with BUF_CAP = 4. -/
def capped : State := State.resetWith { defaultConfig with bufCap := some 4 }

theorem witness_RunsWithoutStepAreRefused :
    (State.reset.setPort [.overlapping [0x00] [0x11]]).port = .overlapping [0x00] [0x11] :: [] ∧
    configWf (State.reset.setPort [.overlapping [0x00] [0x11]]).cfg = true ∧
    32 < ({ defaultConfig with cfgPw := List.replicate 33 0x41 } : Config).cfgPw.length ∧
    ({ defaultConfig with cmdMulticommand := 0xF0 } : Config).cmdConnect =
      ({ defaultConfig with cmdMulticommand := 0xF0 } : Config).cmdMulticommand ∧
    ¬ [({ defaultConfig with mtIpResponse := 0x04 } : Config).mtIpResponse, 0x02, 0x03, 0x04].Nodup := by decide

theorem witness_EveryCommandAnswersOnce :
    configWf (given [0x3E]).cfg = true ∧ (given [0x3E]).port = .command [0x3E] :: [] := by decide

theorem witness_CommandsDependOnlyOnTheBlock :
    SameBlock State.reset (given [0x00]) ∧ (after (exec .stat State.reset)).isSome = true :=
  ⟨⟨rfl, rfl, rfl, rfl⟩, by decide⟩

theorem witness_InvariantHoldsAtReset : configWf defaultConfig = true := by decide

/-- The invariant holds of a reset instance with a packet delivered, at a buffer length of BUF_CAP exactly. -/
theorem witness_StepKeepsInvariant :
    State.Inv (given [0x3E]) ∧ (after (step (given [0x3E]))).isSome = true ∧
    State.Inv ((capped.setBuf [0x41, 0x03, 0x10, 0x54]).setPort [.command [0x11]]) :=
  ⟨⟨by decide, by decide, by decide, by decide, by decide, by simp [given, State.reset, State.resetWith, defaultConfig], by decide⟩,
    by decide,
    ⟨by decide, by decide, by decide, by decide, by decide, by simp [capped, State.resetWith], by decide⟩⟩

theorem witness_StepKeepsResponsesWellFormed :
    State.Inv ((given [0x3E]).answered [0x00, 0x01, 0x00, 0x01]) ∧
    ResponsesWf ((given [0x3E]).answered [0x00, 0x01, 0x00, 0x01]) ∧
    (after (step ((given [0x3E]).answered [0x00, 0x01, 0x00, 0x01]))).isSome = true := by
  refine ⟨⟨by decide, by decide, by decide, by decide, by decide,
    by simp [State.answered, given, State.reset, State.resetWith, defaultConfig], by decide⟩, ?_, ?_⟩
  · intro p hp
    simp [State.answered, given, State.reset, State.resetWith] at hp
    subst hp
    decide
  · decide

theorem witness_ConfigurationNeverWritten : (after (step (given [0x3F]))).isSome = true := by decide

theorem witness_StatelessCommandsFrame :
    (after (exec (.ckv vf) State.reset)).isSome = true ∧ (∀ b, Instr.ckv vf ≠ .feed b) ∧ Instr.ckv vf ≠ .flush ∧
    (∀ w, Instr.ckv vf ≠ .ipunwrap w) ∧ Instr.ckv vf ≠ .hsconn ∧ Instr.ckv vf ≠ .disc := by
  simp
  decide

theorem witness_ReceiveBufferFrame :
    elements (exec (.feed [0xE2, 0x06]) State.reset) = some ([0xE2, 0x06], .disconnected, pw) ∧
    elements (exec .flush (State.reset.setBuf vf)) = some ([], .disconnected, pw) ∧
    elements (exec .disc (State.reset.setBuf vf)) = some ([], .disconnected, pw) ∧
    elements (exec .hsconn (State.reset.setBuf vf)) = some (vf, .awaitingConnectAck, pw) := by decide

/-- The secret changes by DISC, by reset, and by a key response. -/
theorem witness_SessionSecretFrame :
    elements (step ((session .established key).setPort [.command [0x3F]])) = some ([], .disconnected, pw) ∧
    elements (step ((session .established key).setPort [.resetInput])) = some ([], .disconnected, pw) ∧
    elements (step ((session .awaitingConnectAck pw).setPort [.command (encode (.ipunwrap keyWire))])) =
      some ([], .established, key) := by decide

/-- The rows of R162 that do not fail: reset, HSCONN, IP3's key response, DISC. -/
theorem witness_HandshakeTransitions :
    elements (step ((session .established key).setPort [.resetInput])) = some ([], .disconnected, pw) ∧
    elements (step (given [0x32])) = some ([], .awaitingConnectAck, pw) ∧
    elements (step ((session .awaitingConnectAck pw).setPort [.command (encode (.ipunwrap keyWire))])) =
      some ([], .established, key) ∧
    elements (step ((session .failed key).setPort [.command [0x3F]])) = some ([], .disconnected, pw) := by decide

/-- The rows of R162 that fail: a key response one byte short, a flag response, another password. -/
theorem witness_HandshakeTransitions_to_failed :
    elements (step (given (encode (.ipunwrap (connectHdr 0x10 0x01 0x00 ++ List.replicate 16 0x00))))) =
      some ([], .failed, pw) ∧
    elements (step (given (encode (.ipunwrap (connectHdr 0x01 0x01 0x03 ++ [0x20]))))) = some ([], .failed, pw) ∧
    elements (step (given (encode (.ipunwrap (connectHdr 0x09 0x03 0x00 ++ pw.take 9))))) = some ([], .failed, pw) := by decide

/-- STAT, with a 16-byte secret and a 6-byte buffer replaced by others of these lengths. -/
theorem witness_HiddenStateStaysHidden :
    let s := (session .established (List.replicate 16 0x00)).setBuf (List.replicate 6 0x99)
    (after (exec .stat s)).isSome = true ∧ key.length = s.sec.length ∧ vf.length = s.buf.length ∧
    (∀ h p, Instr.stat ≠ .ipwrap h p) ∧ (∀ w, Instr.stat ≠ .ipunwrap w) ∧ Instr.stat ≠ .hsconn ∧ ∀ b, Instr.stat ≠ .feed b :=
  ⟨by decide, by decide, by decide, by simp, by simp, by decide, by simp⟩

/-- An AUTH_ERROR, an error that is no AUTH_ERROR, a packet that is no command, and an OK. -/
theorem witness_ErrorStatusesArePrecise :
    (after (step (given (encode (.ipunwrap (connectHdr 0x01 0x01 0x03 ++ [0x20])))))).map (·.responses) =
      some [[0x02, 0x02, 0x00, 0x11, 0x00]] ∧
    (after (step (given (encode (.ipunwrap []))))).map (·.responses) = some [[0x01]] ∧
    (after (step (given [0x40]))).map (·.responses) = some [[0x0F]] ∧
    (after (step (given [0x00]))).map (·.responses) = some [[0x00]] := by decide

theorem witness_DiscResult :
    configWf (State.reset.setPort [.resetInput]).cfg = true ∧
    (State.reset.setPort [.resetInput]).port = .resetInput :: [] ∧
    (after (step (State.reset.setPort [.resetInput]))).isSome = true := by decide

/-- K2, K9 and R103's compensating changes. -/
theorem witness_ChecksumDetection :
    checksum [0x01, 0x02, 0x03, 0x06] = true ∧ 3 < [0x01, 0x02, 0x03, 0x06].length ∧
    (0x07 : Byte) ≠ ([0x01, 0x02, 0x03, 0x06] : Bytes).getD 3 0x00 ∧ 1 + 1 < [0x01, 0x02, 0x03, 0x06].length ∧
    2 + 1 < [0x01, 0x02, 0x03, 0x06].length := by decide

theorem witness_FeedResult :
    (∀ cap, State.reset.cfg.bufCap = some cap → State.reset.buf.length + vf.length ≤ cap) ∧
    ∀ cap, capped.cfg.bufCap = some cap → capped.buf.length + [0x41, 0x04, 0x10, 0x55].length ≤ cap := by
  constructor
  · simp [State.reset, State.resetWith, defaultConfig]
  · simp [capped, State.resetWith]

theorem witness_FeedResult_past_capacity :
    capped.cfg.bufCap = some 4 ∧ 4 < capped.buf.length + [0x01, 0x02, 0x03, 0x04, 0x05].length := by decide

/-- The operand lengths the encodings of the result statements assume, at both ends. -/
theorem witness_operand_lengths : ([] : Bytes).length ≤ 65535 ∧ (List.replicate 65535 (0x41 : Byte)).length ≤ 65535 :=
  ⟨by decide, List.length_replicate.le⟩

theorem witness_EmittedFramesAreValid : vf ∈ (scan vf).1 := by decide

theorem witness_ScanEndsAtRest :
    scanPass vf = .emit vf [] ∧ scanPass (0x99 :: List.replicate 37 0x01) = .drop (List.replicate 37 0x01) ∧
    (scan [0x41, 0x05, 0x10, 0x55, 0x00]).2 = [0x41, 0x05, 0x10, 0x55, 0x00] ∧ (scan wedge).2 = wedge ∧
    (scan [0x41, 0x05, 0x10]).2 = [0x41, 0x05, 0x10] := by decide

/-- LF1, LF2 and LF3 of the vectors, i = 1, 2, 3. -/
def legacyFrame (i : Nat) : Bytes :=
  frameLiteral ([0x00, 0x14] ++ (List.range 34).map fun j => lowByte (7 * i + j))

/-- S3's stream S1 in two arrivals (50 and 62 bytes), a candidate of 37 exactly, and VF behind three bytes of it at rest. -/
theorem witness_SplitIndependence :
    let s1 := legacyFrame 1 ++ legacyFrame 2 ++ [0x55] ++ legacyFrame 3
    AtRest [] ∧ FrontCandidatesShort ([] ++ [s1.take 50, s1.drop 50].flatten) ∧
    FrontCandidatesShort ([] ++ [[0x12, 0x25], List.replicate 40 0x00].flatten) ∧
    AtRest (vf.take 3) ∧ FrontCandidatesShort (vf.take 3 ++ [vf.drop 3].flatten) := by decide +kernel

theorem wedge_wedged : Wedged wedge :=
  ⟨by decide, by decide, by decide, by decide, by decide⟩

theorem witness_WedgedFeedEmitsNothing :
    Wedged (State.reset.setBuf wedge).buf ∧
    ∀ cap, (State.reset.setBuf wedge).cfg.bufCap = some cap → (State.reset.setBuf wedge).buf.length + vf.length ≤ cap :=
  ⟨wedge_wedged, by simp [State.reset, State.resetWith, defaultConfig]⟩

theorem witness_WedgeLastsUntilFlushed :
    Wedged ((State.reset.setBuf wedge).setPort [.command [0x11]]).buf ∧
    (after (step ((State.reset.setBuf wedge).setPort [.command [0x11]]))).isSome = true :=
  ⟨wedge_wedged, by decide⟩

theorem witness_SubstitutionBoxes : (0x53 : Byte) ≠ 0x00 ∧ gmul 0x53 0xCA = 0x01 ∧ sbox 0x53 = sboxAffine 0xCA := by decide

theorem witness_KeyExpansion : (0 < 8 ∧ 7 < 8) ∧ (8 ≤ 8 ∧ 8 < 60) ∧ 8 ≤ 59 ∧ 59 < 60 := by decide

theorem witness_KschedResult : pw.length ≤ 32 ∧ (List.replicate 32 (0x41 : Byte)).length ≤ 32 := by decide

theorem witness_BlockDecryptionUndoesEncryption : key.length = 16 := by decide

theorem witness_RowMajorIsTransposedFips : key.length = 16 := by decide

theorem witness_EncResult : 16 * 0 < pw.length ∧ 16 * 1 < (key ++ [0x00]).length := by decide

theorem witness_DecResult : key.length % 16 = 0 ∧ 16 * 0 < key.length := by decide

theorem witness_DecUndoesEnc :
    (List.replicate 32 (0x41 : Byte)).length ≤ 32 ∧ (List.replicate 65520 (0x00 : Byte)).length ≤ 65520 :=
  ⟨List.length_replicate.le, List.length_replicate.le⟩

theorem witness_KeyAliasing : pw.length + 22 ≤ 32 ∧ ([] : Bytes).length + 32 ≤ 32 := by decide

theorem witness_HeaderBuildAndParse :
    configWf defaultConfig = true ∧ defaultConfig.layout = defaultLayout ∧ (1 ≤ 7 ∧ 7 < 16 ∧ 7 ∉ layoutOffsets defaultLayout) ∧
    (15 < 16 ∧ 15 ∉ layoutOffsets defaultLayout) ∧ 65535 < 65536 := by decide

theorem witness_IpwrapResult : defaultConfig.layout = defaultLayout := rfl

theorem witness_HsconnResult : State.reset.cfg.layout = defaultLayout := rfl

theorem witness_FrameExtentAndPayload :
    clearPayload State.reset.cfg (parseHeader State.reset.cfg keyWire).messageType (parseHeader State.reset.cfg keyWire).command
      (parseHeader State.reset.cfg keyWire).subCommand = true ∧
    clearPayload State.reset.cfg (parseHeader State.reset.cfg passWire).messageType
      (parseHeader State.reset.cfg passWire).command (parseHeader State.reset.cfg passWire).subCommand = false := by decide

/-- IP14, IP15, IP17 (31 bytes) and IP16: the four ways not to be a whole frame. -/
theorem witness_IpunwrapRejectsNonFrames :
    State.reset.hs ≠ .failed ∧ ¬ WholeFrame defaultConfig (List.replicate 15 0xAA) ∧
    ¬ WholeFrame defaultConfig (0xAB :: List.replicate 15 0x00) ∧ ¬ WholeFrame defaultConfig (passWire.take 31) ∧
    ¬ WholeFrame defaultConfig ([0xAA, 0x00, 0x00, 0x07] ++ List.replicate 12 0x00) :=
  ⟨by decide, fun h => absurd h.header (by decide), fun h => absurd h.magicByte (by decide),
    fun h => absurd h.whole (by decide), fun h => absurd h.known (by decide)⟩

/-- IP3 in AwaitingConnectAck, IP8 in Established, and IP9's short payload. -/
theorem witness_KeyResponse :
    configWf State.reset.cfg = true ∧ (session .awaitingConnectAck pw).hs ≠ .failed ∧
    WholeFrame State.reset.cfg keyWire ∧ WholeFrame State.reset.cfg (connectHdr 0x0A 0x01 0x00 ++ List.replicate 10 0x00) ∧
    (parseHeader State.reset.cfg keyWire).messageType = State.reset.cfg.mtIpResponse ∧
    (parseHeader State.reset.cfg keyWire).command = State.reset.cfg.cmdConnect ∧
    (parseHeader State.reset.cfg keyWire).subCommand ≠ 0x03 ∧ (framePayload State.reset keyWire).length = 19 ∧
    (framePayload State.reset (connectHdr 0x10 0x01 0x00 ++ List.replicate 16 0x00)).length = 16 :=
  ⟨by decide, by decide, ⟨by decide, by decide, by decide, by decide⟩, ⟨by decide, by decide, by decide, by decide⟩,
    by decide, by decide, by decide, by decide, by decide⟩

/-- IP12, and IP13's empty payload. -/
theorem witness_FlagResponse :
    WholeFrame State.reset.cfg (connectHdr 0x01 0x01 0x03 ++ [0x1F]) ∧ WholeFrame State.reset.cfg (connectHdr 0x00 0x01 0x03) ∧
    (parseHeader State.reset.cfg (connectHdr 0x01 0x01 0x03 ++ [0x1F])).messageType = State.reset.cfg.mtIpResponse ∧
    (parseHeader State.reset.cfg (connectHdr 0x01 0x01 0x03 ++ [0x1F])).command = State.reset.cfg.cmdConnect ∧
    (parseHeader State.reset.cfg (connectHdr 0x01 0x01 0x03 ++ [0x1F])).subCommand = 0x03 ∧
    framePayload State.reset (connectHdr 0x01 0x01 0x03 ++ [0x1F]) = [0x1F] ∧
    framePayload State.reset (connectHdr 0x00 0x01 0x03) = [] :=
  ⟨⟨by decide, by decide, by decide, by decide⟩, ⟨by decide, by decide, by decide, by decide⟩, by decide, by decide, by decide,
    by decide, by decide⟩

/-- IP10, and IP11's other length. -/
theorem witness_PasswordRequest :
    WholeFrame State.reset.cfg (connectHdr 0x0A 0x03 0x00 ++ pw) ∧
    WholeFrame State.reset.cfg (connectHdr 0x09 0x03 0x00 ++ pw.take 9) ∧
    (parseHeader State.reset.cfg (connectHdr 0x0A 0x03 0x00 ++ pw)).messageType = State.reset.cfg.mtIpRequest ∧
    (parseHeader State.reset.cfg (connectHdr 0x0A 0x03 0x00 ++ pw)).command = State.reset.cfg.cmdConnect ∧
    (parseHeader State.reset.cfg (connectHdr 0x0A 0x03 0x00 ++ pw)).subCommand = 0x00 ∧
    framePayload State.reset (connectHdr 0x0A 0x03 0x00 ++ pw) = State.reset.sec ∧
    framePayload State.reset (connectHdr 0x09 0x03 0x00 ++ pw.take 9) ≠ State.reset.sec :=
  ⟨⟨by decide, by decide, by decide, by decide⟩, ⟨by decide, by decide, by decide, by decide⟩, by decide, by decide, by decide,
    by decide, by decide⟩

/-- IP5, and a connect request with another sub_command. -/
theorem witness_OtherFramesReturned :
    (session .established key).hs ≠ .failed ∧ WholeFrame State.reset.cfg passWire ∧
    (parseHeader State.reset.cfg passWire).command ≠ State.reset.cfg.cmdMulticommand ∧
    (parseHeader State.reset.cfg passWire).command ≠ State.reset.cfg.cmdConnect ∧
    WholeFrame State.reset.cfg (connectHdr 0x00 0x03 0x01) ∧
    (parseHeader State.reset.cfg (connectHdr 0x00 0x03 0x01)).command = State.reset.cfg.cmdConnect ∧
    (parseHeader State.reset.cfg (connectHdr 0x00 0x03 0x01)).messageType ≠ State.reset.cfg.mtIpResponse ∧
    (parseHeader State.reset.cfg (connectHdr 0x00 0x03 0x01)).subCommand ≠ 0x00 :=
  ⟨by decide, ⟨by decide, by decide, by decide, by decide⟩, by decide, by decide, ⟨by decide, by decide, by decide, by decide⟩,
    by decide, by decide, by decide⟩

/-- IP6 and IP7. -/
theorem witness_MulticommandFrame :
    configWf State.reset.cfg = true ∧ (session .established key).hs ≠ .failed ∧ WholeFrame State.reset.cfg multiWire ∧
    (parseHeader State.reset.cfg multiWire).command = State.reset.cfg.cmdMulticommand ∧
    framePayload (session .established key) multiWire = joinSegments [[0x61, 0x62, 0x63], [0x78, 0x79]] ∧
    WholeFrame State.reset.cfg overrunWire ∧
    (parseHeader State.reset.cfg overrunWire).command = State.reset.cfg.cmdMulticommand ∧
    ∀ segs : List Bytes, (∀ g ∈ segs, g.length ≤ 255) →
      framePayload (session .established key) overrunWire ≠ joinSegments segs := by
  refine ⟨by decide, by decide, ⟨by decide, by decide, by decide, by decide⟩, by decide, by decide,
    ⟨by decide, by decide, by decide, by decide⟩, by decide, fun segs h => ?_⟩
  rw [show framePayload (session .established key) overrunWire = [0x03, 0x61, 0x62] by decide]
  exact overrun_is_no_join segs h

theorem witness_MsplitResult :
    (∀ g ∈ [([] : Bytes), List.replicate 255 0x00], g.length ≤ 255) ∧
    ∀ segs : List Bytes, (∀ g ∈ segs, g.length ≤ 255) → [0x03, 0x61, 0x62] ≠ joinSegments segs :=
  ⟨by simp, overrun_is_no_join⟩

theorem witness_FailedIsTerminal :
    (session .failed key).hs = .failed ∧ (after (exec .stat (session .failed key))).isSome = true ∧
    (∀ h p, Instr.stat ≠ .ipwrap h p) ∧ (∀ w, Instr.stat ≠ .ipunwrap w) ∧ Instr.stat ≠ .hsconn ∧
    elements (step ((session .failed key).setPort [.command [0x3F]])) = some ([], .disconnected, pw) ∧
    elements (step ((session .failed key).setPort [.resetInput])) = some ([], .disconnected, pw) :=
  ⟨by decide, by decide, by simp, by simp, by decide, by decide, by decide⟩

theorem witness_IpunwrapUndoesIpwrap :
    configWf (session .established key).cfg = true ∧ (session .established key).hs ≠ .failed ∧
    (0x04 : Byte) ∈ [defaultConfig.mtIpResponse, defaultConfig.mtSerialPtResponse, defaultConfig.mtIpRequest,
      defaultConfig.mtSerialPtRequest] ∧
    (0x00 : Byte) ≠ defaultConfig.cmdConnect ∧ (0x00 : Byte) ≠ defaultConfig.cmdMulticommand ∧
    clearPayload defaultConfig 0x04 0x00 0x00 = false ∧ (List.replicate 65504 (0x00 : Byte)).length ≤ 65504 ∧
    clearPayload { defaultConfig with clear := .anyOf [⟨none, some 0x00, none⟩] } 0x04 0x00 0x00 = true ∧
    (List.replicate 65519 (0x00 : Byte)).length ≤ 65519 :=
  ⟨by decide, by decide, by decide, by decide, by decide, by decide, List.length_replicate.le, by decide, List.length_replicate.le⟩

theorem witness_PseudoInstructions :
    (∀ g ∈ [([] : Bytes), List.replicate 255 0x00], g.length ≤ 255) ∧
    ∃ g ∈ [List.replicate 256 (0x00 : Byte)], 255 < g.length := by
  constructor <;> simp

end Sys2Proof.Tests
end

section
/-! What one step and one decoded packet do, an equation a case (R5, R61), and the obligations of 00_scope.md. -/

namespace Sys2Proof.Machine

theorem runPacket_of_decode_ok {packet : Bytes} {i : Instr} (hd : decode packet = .ok i) (s : State) :
    runPacket packet s = exec i s := by
  simp only [runPacket, hd]

theorem step_of_port_nil {s : State} (hc : configWf s.cfg = true) (hp : s.port = []) : step s = .next s := by
  simp [step, hc, hp]

theorem step_of_port_command {s : State} {packet : Bytes} {rest : List Input} (hc : configWf s.cfg = true)
    (hp : s.port = .command packet :: rest) : step s = runPacket packet (s.setPort rest) := by
  simp [step, hc, hp]

/-- Settles O6: the step hands the packet to the decoder (R61), and the idle block answers its own state (R212). -/
theorem stepRunsDecodedCommand : Obligations.StepRunsDecodedCommand := by
  constructor
  · intro s packet rest i hc hp hd
    calc step s = runPacket packet (s.setPort rest) := step_of_port_command hc hp
      _ = exec i { s with port := rest } := runPacket_of_decode_ok hd _
  · intro s hc hp
    exact step_of_port_nil hc hp

end Sys2Proof.Machine
end

section
/-! What the writing commands do, said once: the writes as data (R20, R25), which command makes which (R21, R23, R24), and the
inversion of `exec` and of `step` that every frame and the invariant follow from. -/

namespace Sys2Proof.Machine

/-- A write to the three elements. -/
inductive Write where
  | keep
  | setBuf (b : Bytes)
  | awaitAck
  | fail
  | install (k : Bytes)
  | disconnect

/-- The state after a write. -/
def Write.apply (w : Write) (s : State) : State :=
  match w with
  | .keep => s
  | .setBuf b => s.setBuf b
  | .awaitAck => s.setHs .awaitingConnectAck
  | .fail => s.failSession
  | .install k => s.installKey k
  | .disconnect => s.disconnect

@[simp] theorem Write.apply_cfg (w : Write) (s : State) : (w.apply s).cfg = s.cfg := by
  cases w <;> rfl

@[simp] theorem Write.apply_responses (w : Write) (s : State) : (w.apply s).responses = s.responses := by
  cases w <;> rfl

/-- What command `i` can write in state `s`, each write with the condition the spec puts on it. -/
inductive Writes (s : State) : Instr → Write → Prop
  | keep {i : Instr} (notFeed : ∀ arrived, i ≠ .feed arrived) (notFlush : i ≠ .flush) (notDisc : i ≠ .disc) :
      Writes s i .keep
  /-- R111, R121. -/
  | feed {arrived : Bytes} (fits : s.overCapacity arrived.length = false) :
      Writes s (.feed arrived) (.setBuf (scan (s.buf ++ arrived)).2)
  /-- R118. -/
  | flush : Writes s .flush (.setBuf [])
  /-- R192. -/
  | disc : Writes s .disc .disconnect
  /-- R164. -/
  | hsconn (idle : s.hs = .disconnected) : Writes s .hsconn .awaitAck
  /-- R162, R203. -/
  | fail {wire : Bytes} (live : s.hs ≠ .failed) (whole : WholeFrame s.cfg wire)
      (fails : FailsSession s.cfg s.sec (parseHeader s.cfg wire) (framePayload s wire)) : Writes s (.ipunwrap wire) .fail
  /-- R162, R168. -/
  | install {wire : Bytes} (awaiting : s.hs = .awaitingConnectAck) (whole : WholeFrame s.cfg wire)
      (key : IsKeyResponse s.cfg (parseHeader s.cfg wire)) (long : 17 ≤ (framePayload s wire).length) :
      Writes s (.ipunwrap wire) (.install (((framePayload s wire).drop 1).take 16))

/-- An outcome fixed by the operands, with no write, whatever the state. -/
def ConstantReply (f : State → Host.Outcome State Fault Refusal) : Prop :=
  ∃ st fields, ∀ s, f s = reply s st fields

theorem constantReply_reply (st : Status) (fields : List Bytes) : ConstantReply fun s => reply s st fields :=
  ⟨st, fields, fun _ => rfl⟩

theorem ConstantReply.ite {c : Prop} [Decidable c] {f g : State → Host.Outcome State Fault Refusal}
    (hf : ConstantReply f) (hg : ConstantReply g) : ConstantReply fun s => if c then f s else g s := by
  by_cases hc : c
  · simpa only [hc, if_true] using hf
  · simpa only [hc, if_false] using hg

theorem execMsplit_constantReply (payload : Bytes) : ConstantReply (execMsplit payload) := by
  unfold execMsplit
  cases split payload with
  | none => exact constantReply_reply _ _
  | some segs => exact constantReply_reply _ _

/-- The commands that neither read nor write the three elements. -/
def stateFree : Instr → Bool
  | .nop | .ckv _ | .ckg _ | .ksched _ | .enc _ _ | .dec _ _ | .msplit _ => true
  | _ => false

/-- R21, R130, R171, R190. -/
theorem exec_constantReply {i : Instr} (h : stateFree i = true) : ConstantReply (exec i) := by
  have leaf := constantReply_reply
  cases i with
  | nop | ckv _ | ckg _ => exact leaf _ _
  | ksched _ => exact (leaf _ _).ite (leaf _ _)
  | enc _ _ | dec _ _ => exact (leaf _ _).ite ((leaf _ _).ite (leaf _ _))
  | msplit payload => exact execMsplit_constantReply payload
  | feed _ | flush | ipwrap _ _ | ipunwrap _ | hsconn | stat | disc => cases h

theorem exec_eq_reply_of_stateFree {i : Instr} (h : stateFree i = true) (s : State) :
    ∃ w st fields, Writes s i w ∧ exec i s = reply (w.apply s) st fields := by
  obtain ⟨st, fields, he⟩ := exec_constantReply h
  have keep : Writes s i .keep := .keep (by rintro _ rfl; cases h) (by rintro rfl; cases h) (by rintro rfl; cases h)
  exact ⟨.keep, st, fields, keep, he s⟩

/-- R163: IPWRAP writes no state. -/
theorem execIpwrap_eq_reply (hdr payload : Bytes) (s : State) : ∃ st fields, execIpwrap hdr payload s = reply s st fields := by
  unfold execIpwrap
  split
  · exact ⟨_, _, rfl⟩
  · cases headerOperand hdr with
    | none => exact ⟨_, _, rfl⟩
    | some h =>
      dsimp only
      split
      · exact ⟨_, _, rfl⟩
      · split <;> exact ⟨_, _, rfl⟩

theorem execHsconn_eq_reply (s : State) :
    ∃ w st fields, Writes s .hsconn w ∧ execHsconn s = reply (w.apply s) st fields := by
  have keep : Writes s .hsconn .keep := .keep (by simp) (by simp) (by simp)
  unfold execHsconn
  split
  · exact ⟨_, _, _, keep, rfl⟩
  · split
    · exact ⟨_, _, _, keep, rfl⟩
    · next idle => exact ⟨_, _, _, .hsconn (not_not.mp idle), rfl⟩

theorem execIpunwrap_eq_reply (wire : Bytes) (s : State) :
    ∃ w st fields, Writes s (.ipunwrap wire) w ∧ execIpunwrap wire s = reply (w.apply s) st fields := by
  obtain ⟨u, st, fields, he, h⟩ := execIpunwrap_cases wire s
  rcases h with ⟨rfl, -⟩ | ⟨live, whole, fails, rfl, -⟩ | ⟨awaiting, whole, key, long, rfl, -⟩
  · exact ⟨.keep, st, fields, .keep (by simp) (by simp) (by simp), he⟩
  · exact ⟨.fail, st, fields, .fail live whole fails, he⟩
  · exact ⟨.install _, st, fields, .install awaiting whole key long, he⟩

/-- R111, R121: FEED within BUF_CAP; past it there is no step. -/
theorem execFeed_eq_reply {arrived : Bytes} {s : State} (h : s.overCapacity arrived.length = false) :
    execFeed arrived s = reply (s.setBuf (scan (s.buf ++ arrived)).2) .ok (scan (s.buf ++ arrived)).1 := by
  simp [execFeed, h]

theorem execFeed_eq_refused {arrived : Bytes} {s : State} (h : s.overCapacity arrived.length = true) :
    execFeed arrived s = .refused .bufferCapacity := by
  simp [execFeed, h]

/-- Every command answers once, after a write it can make, or it is the FEED that is refused. -/
theorem exec_eq_reply_or_refused (i : Instr) (s : State) :
    (∃ w st fields, Writes s i w ∧ exec i s = reply (w.apply s) st fields) ∨ exec i s = .refused .bufferCapacity := by
  cases i with
  | nop | ckv _ | ckg _ | ksched _ | enc _ _ | dec _ _ | msplit _ =>
    exact .inl (exec_eq_reply_of_stateFree rfl s)
  | stat => exact .inl ⟨.keep, _, _, .keep (by simp) (by simp) (by simp), rfl⟩
  | ipwrap hdr payload =>
    obtain ⟨st, fields, he⟩ := execIpwrap_eq_reply hdr payload s
    exact .inl ⟨.keep, st, fields, .keep (by simp) (by simp) (by simp), he⟩
  | flush => exact .inl ⟨_, _, _, .flush, rfl⟩
  | disc => exact .inl ⟨_, _, _, .disc, rfl⟩
  | hsconn => exact .inl (execHsconn_eq_reply s)
  | ipunwrap wire => exact .inl (execIpunwrap_eq_reply wire s)
  | feed arrived =>
    cases h : s.overCapacity arrived.length with
    | false => exact .inl ⟨_, _, _, .feed h, execFeed_eq_reply h⟩
    | true => exact .inr (execFeed_eq_refused h)

/-- The inversion of `exec`. -/
theorem exec_next_writes {i : Instr} {s t : State} (h : exec i s = .next t) :
    ∃ w packet, Writes s i w ∧ t = (w.apply s).answered packet := by
  rcases exec_eq_reply_or_refused i s with ⟨w, st, fields, hw, he⟩ | he
  · rw [he, reply_eq_answered, Host.Outcome.next.injEq] at h
    exact ⟨w, _, hw, h.symm⟩
  · rw [he] at h
    cases h

theorem runPacket_of_decode_error {packet : Bytes} {e : DecodeError} (hd : decode packet = .error e) (s : State) :
    runPacket packet s = replyUndecoded s e := by
  simp only [runPacket, hd]

theorem step_of_configWf_false {s : State} (hc : configWf s.cfg = false) : step s = .refused .configOutsideSpec := by
  simp [step, hc]

theorem step_of_port_resetInput {s : State} {rest : List Input} (hc : configWf s.cfg = true)
    (hp : s.port = .resetInput :: rest) : step s = .next (s.setPort rest).disconnect := by
  simp [step, hc, hp]

theorem step_of_port_overlapping {s : State} {a b : Bytes} {rest : List Input} (hc : configWf s.cfg = true)
    (hp : s.port = .overlapping a b :: rest) : step s = .refused .overlappingCommands := by
  simp [step, hc, hp]

theorem replyUndecoded_eq_answered (s : State) (e : DecodeError) :
    replyUndecoded s e = .next (s.answered [(decodeErrorStatus e).code]) :=
  reply_eq_answered s (decodeErrorStatus e) []

theorem configWf_of_step_next {s t : State} (h : step s = .next t) : configWf s.cfg = true := by
  by_contra hc
  rw [step_of_configWf_false (Bool.eq_false_of_not_eq_true hc)] at h
  cases h

/-- The inversion of `step`: idle, reset, a packet that is no command, or a command. -/
theorem step_next_cases {s t : State} (h : step s = .next t) :
    (s.port = [] ∧ t = s) ∨
    (∃ rest, s.port = .resetInput :: rest ∧ t = (s.setPort rest).disconnect) ∨
    (∃ packet rest e, s.port = .command packet :: rest ∧ decode packet = .error e ∧
      t = (s.setPort rest).answered [(decodeErrorStatus e).code]) ∨
    ∃ packet rest i w response, s.port = .command packet :: rest ∧ decode packet = .ok i ∧ Writes (s.setPort rest) i w ∧
      t = (w.apply (s.setPort rest)).answered response := by
  have hc := configWf_of_step_next h
  cases hp : s.port with
  | nil =>
    rw [step_of_port_nil hc hp, Host.Outcome.next.injEq] at h
    exact .inl ⟨rfl, h.symm⟩
  | cons input rest =>
    cases input with
    | resetInput =>
      rw [step_of_port_resetInput hc hp, Host.Outcome.next.injEq] at h
      exact .inr (.inl ⟨rest, rfl, h.symm⟩)
    | overlapping a b =>
      rw [step_of_port_overlapping hc hp] at h
      cases h
    | command packet =>
      rw [step_of_port_command hc hp] at h
      cases hd : decode packet with
      | error e =>
        rw [runPacket_of_decode_error hd, replyUndecoded_eq_answered, Host.Outcome.next.injEq] at h
        exact .inr (.inr (.inl ⟨packet, rest, e, rfl, hd, h.symm⟩))
      | ok i =>
        rw [runPacket_of_decode_ok hd] at h
        obtain ⟨w, response, hw, rfl⟩ := exec_next_writes h
        exact .inr (.inr (.inr ⟨packet, rest, i, w, response, rfl, hd, hw, rfl⟩))

end Sys2Proof.Machine
end

section
/-! The invariant of the block: it holds at reset and every step keeps it (R20, R23, R25, R117, R121). -/

namespace Sys2Proof.Machine

/-- R112: a scan removes leading bytes of the buffer. -/
theorem scanLoop_suffix (n : Nat) (b : Bytes) : (scanLoop n b).2 <:+ b := by
  induction n generalizing b with
  | zero => exact List.suffix_rfl
  | succ n ih =>
    simp only [scanLoop]
    cases h : scanPass b with
    | stop => exact List.suffix_rfl
    | emit frame rest => exact (ih rest).trans ⟨frame, (scanPass_emit h).1⟩
    | drop rest =>
      obtain ⟨rfl, -⟩ := scanPass_drop h
      exact (ih _).trans (List.drop_suffix 1 b)

theorem scan_suffix (b : Bytes) : (scan b).2 <:+ b :=
  scanLoop_suffix b.length b

/-- R117: each pass removes a byte or stops, so as many passes as bytes come to rest. -/
theorem scanLoop_atRest {n : Nat} {b : Bytes} (hn : b.length ≤ n) : AtRest (scanLoop n b).2 := by
  induction n generalizing b with
  | zero =>
    obtain rfl : b = [] := List.eq_nil_of_length_eq_zero (by omega)
    decide
  | succ n ih =>
    simp only [scanLoop]
    cases h : scanPass b with
    | stop => exact h
    | emit frame rest =>
      obtain ⟨hb, h4, -, -⟩ := scanPass_emit h
      have hl := congrArg List.length hb
      rw [List.length_append] at hl
      exact ih (by omega)
    | drop rest =>
      obtain ⟨rfl, hb⟩ := scanPass_drop h
      exact ih (by simp; omega)

theorem scan_atRest (b : Bytes) : AtRest (scan b).2 :=
  scanLoop_atRest le_rfl

theorem atRest_nil : AtRest [] := by
  decide

theorem cfgPw_length_le {cfg : Config} (h : configWf cfg = true) : cfg.cfgPw.length ≤ 32 := by
  simp only [configWf, Bool.and_eq_true, decide_eq_true_eq] at h
  exact h.1.1.1

/-- Settles O11: nothing buffered, Disconnected, and the secret is CFG_PW, which R232 bounds. -/
theorem invariantHoldsAtReset : Obligations.InvariantHoldsAtReset := fun cfg hc =>
  { config := hc
    secretShort := cfgPw_length_le hc
    notTransient := by simp [State.resetWith]
    secretConfigured := fun _ => rfl
    secretInstalled := by simp [State.resetWith]
    bufferBounded := fun _ _ => Nat.zero_le _
    bufferAtRest := atRest_nil }

/-- The invariant speaks of the three elements and the configuration alone. -/
theorem State.Inv.of_sameBlock {s t : State} (hi : s.Inv) (h : SameBlock s t) : t.Inv := by
  obtain ⟨hcfg, hbuf, hhs, hsec⟩ := h
  constructor
  all_goals simp only [hcfg, hbuf, hhs, hsec]
  · exact hi.config
  · exact hi.secretShort
  · exact hi.notTransient
  · exact hi.secretConfigured
  · exact hi.secretInstalled
  · exact hi.bufferBounded
  · exact hi.bufferAtRest

theorem State.Inv.disconnect {s : State} (hi : s.Inv) : s.disconnect.Inv :=
  (invariantHoldsAtReset s.cfg hi.config).of_sameBlock ⟨rfl, rfl, rfl, rfl⟩

theorem State.Inv.setBuf {s : State} (hi : s.Inv) {b : Bytes}
    (bounded : ∀ cap, s.cfg.bufCap = some cap → b.length ≤ cap) (rest : AtRest b) : (s.setBuf b).Inv :=
  { hi with bufferBounded := bounded, bufferAtRest := rest }

theorem State.Inv.failSession {s : State} (hi : s.Inv) : s.failSession.Inv :=
  { hi with
    notTransient := by simp
    secretConfigured := by simp
    secretInstalled := by simp }

theorem State.Inv.installKey {s : State} (hi : s.Inv) {k : Bytes} (hk : k.length = 16) : (s.installKey k).Inv :=
  { hi with
    secretShort := by simp [hk]
    notTransient := by simp
    secretConfigured := by simp
    secretInstalled := fun _ => hk }

theorem State.Inv.awaitAck {s : State} (hi : s.Inv) (idle : s.hs = .disconnected) :
    (s.setHs .awaitingConnectAck).Inv :=
  { hi with
    notTransient := by simp
    secretConfigured := fun _ => hi.secretConfigured (.inl idle)
    secretInstalled := by simp }

/-- R168: the key slice of a payload of at least 17 bytes. -/
theorem installedKey_length {pl : Bytes} (h : 17 ≤ pl.length) : ((pl.drop 1).take 16).length = 16 := by
  simp
  omega

/-- Every write a command can make keeps the invariant. -/
theorem State.Inv.apply {s : State} {i : Instr} {w : Write} (hi : s.Inv) (hw : Writes s i w) : (w.apply s).Inv := by
  cases hw with
  | keep => exact hi
  | @feed arrived fits =>
    refine hi.setBuf (fun cap hcap => ?_) (scan_atRest _)
    have hfit := (overCapacity_eq_false_iff s _).mp fits cap hcap
    have hle := (scan_suffix (s.buf ++ arrived)).length_le
    rw [List.length_append] at hle
    exact hle.trans hfit
  | flush => exact hi.setBuf (fun _ _ => Nat.zero_le _) atRest_nil
  | disc => exact hi.disconnect
  | hsconn idle => exact hi.awaitAck idle
  | fail => exact hi.failSession
  | install _ _ _ long => exact hi.installKey (installedKey_length long)

theorem State.Inv.answered {s : State} (hi : s.Inv) (p : Bytes) : (s.answered p).Inv :=
  hi.of_sameBlock ⟨rfl, rfl, rfl, rfl⟩

/-- Settles O12, by the writes a step can make. -/
theorem stepKeepsInvariant : Obligations.StepKeepsInvariant := by
  intro s t hi h
  have taken (rest : List Input) : (s.setPort rest).Inv := hi.of_sameBlock ⟨rfl, rfl, rfl, rfl⟩
  rcases step_next_cases h with ⟨-, rfl⟩ | ⟨rest, -, rfl⟩ | ⟨_, rest, e, -, -, rfl⟩ | ⟨_, rest, i, w, response, -, -, hw, rfl⟩
  · exact hi
  · exact (taken rest).disconnect
  · exact (taken rest).answered _
  · exact ((taken rest).apply hw).answered response

end Sys2Proof.Machine
end

section
/-! What the commands leave unchanged (R21 to R24), and STAT's result (R191). -/

namespace Sys2Proof.Machine

/-- Settles O14: no write touches the configuration. -/
theorem configurationNeverWritten : Obligations.ConfigurationNeverWritten := by
  intro s t h
  rcases step_next_cases h with ⟨-, rfl⟩ | ⟨rest, -, rfl⟩ | ⟨_, rest, e, -, -, rfl⟩ | ⟨_, rest, i, w, response, -, -, -, rfl⟩
  · rfl
  · rfl
  · rfl
  · exact w.apply_cfg _

/-- Settles O22: R26's code and R191's four length bytes. -/
theorem statResult : Obligations.StatResult := by
  refine ⟨by decide, fun s => ?_⟩
  have hlen : le32 (min s.buf.length 0xFFFFFFFF) =
      [BitVec.ofNat 8 (min s.buf.length 0xFFFFFFFF), BitVec.ofNat 8 (min s.buf.length 0xFFFFFFFF / 256),
        BitVec.ofNat 8 (min s.buf.length 0xFFFFFFFF / 65536), BitVec.ofNat 8 (min s.buf.length 0xFFFFFFFF / 16777216)] := by
    simp only [le32, lowByte, Nat.shiftRight_eq_div_pow, Nat.reducePow]
  show reply s .ok (statusView s) = _
  rw [reply_eq_answered, statusView, hlen]
  cases s.hs <;> rfl

/-- Settles O15: of the writes a command can make, these commands are left with none. -/
theorem statelessCommandsFrame : Obligations.StatelessCommandsFrame := by
  intro i s t h notFeed notFlush notUnwrap notConnect notDisc
  obtain ⟨w, packet, hw, rfl⟩ := exec_next_writes h
  cases hw with
  | keep => exact ⟨packet, rfl⟩
  | feed => exact absurd rfl (notFeed _)
  | flush => exact absurd rfl notFlush
  | disc => exact absurd rfl notDisc
  | hsconn => exact absurd rfl notConnect
  | fail => exact absurd rfl (notUnwrap _)
  | install => exact absurd rfl (notUnwrap _)

theorem exec_flush_eq (s : State) : exec .flush s = .next ((s.setBuf []).answered [0x00]) :=
  reply_eq_answered _ .ok []

theorem exec_disc_eq (s : State) : exec .disc s = .next (s.disconnect.answered [0x00]) :=
  reply_eq_answered _ .ok []

/-- Settles O16: the scan removes leading bytes, and no other write but FLUSH's and DISC's names the buffer. -/
theorem receiveBufferFrame : Obligations.ReceiveBufferFrame := by
  intro i s t h
  obtain ⟨w, packet, hw, ht⟩ := exec_next_writes h
  cases hw with
  | feed =>
    obtain ⟨dropped, hd⟩ := scan_suffix (s.buf ++ _)
    subst ht
    exact .inl ⟨_, dropped, packet, rfl, hd, rfl⟩
  | flush =>
    rw [exec_flush_eq, Host.Outcome.next.injEq] at h
    exact .inr (.inl ⟨rfl, h.symm⟩)
  | disc =>
    rw [exec_disc_eq, Host.Outcome.next.injEq] at h
    exact .inr (.inr (.inl ⟨rfl, h.symm⟩))
  | keep notFeed notFlush notDisc => exact .inr (.inr (.inr ⟨notFeed, notFlush, notDisc, by rw [ht]; rfl⟩))
  | hsconn | fail | install =>
    subst ht
    exact .inr (.inr (.inr ⟨by simp, by simp, by simp, rfl⟩))

/-- R61, R63: DISC's packet is its opcode alone. -/
theorem eq_of_decode_disc {packet : Bytes} (h : decode packet = .ok .disc) : packet = [0x3F] := by
  unfold decode at h
  split at h
  · cases h
  next opc rest =>
  split at h
  · cases h
  next o ho =>
  split at h
  next ops hops =>
    rw [Except.ok.injEq] at h
    obtain rfl : o = .disc := by cases o <;> cases h; rfl
    cases rest with
    | nil => exact congrArg (· :: []) (Opcode.code_of_ofByte ho).symm
    | cons b more => cases hops
  · cases h

/-- Settles O17: two writes name the secret, DISC's (and reset's) and the key response's. -/
theorem sessionSecretFrame : Obligations.SessionSecretFrame := by
  intro s t h hne
  rcases step_next_cases h with ⟨-, rfl⟩ | ⟨rest, hp, rfl⟩ | ⟨_, rest, e, -, -, rfl⟩ |
    ⟨packet, rest, i, w, response, hp, hd, hw, rfl⟩
  · exact absurd rfl hne
  · exact .inl ⟨rest, .inr hp, rfl⟩
  · exact absurd rfl hne
  · cases hw with
    | disc =>
      obtain rfl := eq_of_decode_disc hd
      exact .inl ⟨rest, .inl hp, rfl⟩
    | install awaiting whole key long =>
      exact .inr ⟨packet, rest, _, hp, hd, whole, key, long, awaiting, rfl, rfl, installedKey_length long⟩
    | keep | feed | flush | hsconn | fail => exact absurd rfl hne

end Sys2Proof.Machine
end

section
/-! What a command's answer depends on (R33, R43): two runs of a command from states that agree on what it shows give the same
response and make the same write. -/

namespace Sys2Proof.Machine

/-- One outcome from `s` and one from `t`: the same response after the same write, or the same refusal. -/
inductive SameAnswer (s t : State) :
    Host.Outcome State Fault Refusal → Host.Outcome State Fault Refusal → Prop
  | reply (w : Write) (st : Status) (fields : List Bytes) :
      SameAnswer s t (reply (w.apply s) st fields) (reply (w.apply t) st fields)
  | refused (r : Refusal) : SameAnswer s t (.refused r) (.refused r)

theorem SameAnswer.ite {s t : State} {c : Prop} [Decidable c] {a a' b b' : Host.Outcome State Fault Refusal}
    (ha : SameAnswer s t a a') (hb : SameAnswer s t b b') :
    SameAnswer s t (if c then a else b) (if c then a' else b') := by
  split
  · exact ha
  · exact hb

theorem SameAnswer.keep {s t : State} (st : Status) (fields : List Bytes) :
    SameAnswer s t (Machine.reply s st fields) (Machine.reply t st fields) :=
  .reply .keep st fields

theorem SameAnswer.next {s t s' : State} {o o' : Host.Outcome State Fault Refusal} (h : SameAnswer s t o o')
    (ho : o = .next s') :
    ∃ (w : Write) (packet : Bytes), s' = (w.apply s).answered packet ∧ o' = .next ((w.apply t).answered packet) := by
  cases h with
  | reply w st fields =>
    rw [reply_eq_answered, Host.Outcome.next.injEq] at ho
    exact ⟨w, _, ho.symm, reply_eq_answered _ _ _⟩
  | refused r => cases ho

theorem ConstantReply.sameAnswer {f : State → Host.Outcome State Fault Refusal} (h : ConstantReply f) (s t : State) :
    SameAnswer s t (f s) (f t) := by
  obtain ⟨st, fields, he⟩ := h
  rw [he, he]
  exact .keep st fields

/-- The connect checks from `s` and from `t`: both fail, or both pass with the same write. -/
inductive SameCheck (s t : State) : Option State → Option State → Prop
  | fails : SameCheck s t none none
  | passes (w : Write) : SameCheck s t (some (w.apply s)) (some (w.apply t))

theorem SameCheck.ite {s t : State} {c : Prop} [Decidable c] {a a' b b' : Option State}
    (ha : SameCheck s t a a') (hb : SameCheck s t b b') : SameCheck s t (if c then a else b) (if c then a' else b') := by
  split
  · exact ha
  · exact hb

/-- The states agree on all that a session command reads: the configuration, the handshake state and the secret. -/
structure SameSession (s t : State) : Prop where
  cfg : t.cfg = s.cfg
  hs : t.hs = s.hs
  sec : t.sec = s.sec

section
variable {s t : State} (h : SameSession s t)
include h

theorem SameSession.wrapPayload_eq (hdr : WireHeader) (p : Bytes) : wrapPayload t hdr p = wrapPayload s hdr p := by
  simp only [wrapPayload, h.cfg, h.sec]

theorem SameSession.framePayload_eq (wire : Bytes) : framePayload t wire = framePayload s wire := by
  simp only [framePayload, h.cfg, h.sec]

/-- The connect checks fail in both states, or make the same write in both. -/
theorem SameSession.connectCheck (hdr : WireHeader) (pl : Bytes) :
    SameCheck s t (Machine.connectCheck s hdr pl) (Machine.connectCheck t hdr pl) := by
  have keep : SameCheck s t (some s) (some t) := .passes .keep
  simp only [Machine.connectCheck, h.cfg, h.hs, h.sec]
  exact .ite keep (.ite (.ite keep .fails) (.ite (.ite keep .fails)
    (.ite (.ite .fails (.ite (.passes (.install _)) keep)) keep)))

theorem SameSession.execIpwrap (hdr payload : Bytes) :
    SameAnswer s t (Machine.execIpwrap hdr payload s) (Machine.execIpwrap hdr payload t) := by
  simp only [Machine.execIpwrap, h.cfg, h.hs, h.wrapPayload_eq]
  refine .ite (.keep _ _) ?_
  cases headerOperand hdr with
  | none => exact .keep _ _
  | some hdr => exact .ite (.keep _ _) (.ite (.keep _ _) (.keep _ _))

theorem SameSession.execHsconn : SameAnswer s t (execHsconn s) (execHsconn t) := by
  simp only [Machine.execHsconn, h.cfg, h.hs, h.sec]
  exact .ite (.keep _ _) (.ite (.keep _ _) (.reply .awaitAck _ _))

theorem SameSession.execIpunwrap (wire : Bytes) : SameAnswer s t (execIpunwrap wire s) (execIpunwrap wire t) := by
  simp only [Machine.execIpunwrap, h.cfg, h.hs, h.framePayload_eq]
  refine .ite (.keep _ _) (.ite (.keep _ _) (.ite (.keep _ _) (.ite (.keep _ _) (.ite (.keep _ _) ?_))))
  have checks := h.connectCheck (parseHeader s.cfg wire) (framePayload s wire)
  generalize Machine.connectCheck s _ _ = o, Machine.connectCheck t _ _ = o' at checks ⊢
  cases checks with
  | fails => exact .reply .fail _ _
  | passes w =>
    cases frameSegments s.cfg (parseHeader s.cfg wire) (framePayload s wire) with
    | none => exact .reply w _ _
    | some segs => exact .reply w _ _

end

/-- R111: FEED reads the configuration and the buffer. -/
theorem execFeed_sameAnswer {s t : State} (hcfg : t.cfg = s.cfg) (hbuf : t.buf = s.buf) (arrived : Bytes) :
    SameAnswer s t (execFeed arrived s) (execFeed arrived t) := by
  simp only [execFeed, State.overCapacity, hcfg, hbuf]
  exact .ite (.refused _) (.reply (.setBuf _) _ _)

/-- R33, log 11: the commands whose answer shows the contents of the secret. -/
def showsSecret : Instr → Bool
  | .ipwrap _ _ | .ipunwrap _ | .hsconn => true
  | _ => false

/-- R33: the command whose answer shows the contents of the buffer. -/
def showsBuffer : Instr → Bool
  | .feed _ => true
  | _ => false

/-- R33: the states agree on all that the answer of `i` shows; every answer may show the two lengths (R191). -/
structure AlikeFor (i : Instr) (s t : State) : Prop where
  cfg : t.cfg = s.cfg
  hs : t.hs = s.hs
  bufLength : t.buf.length = s.buf.length
  secLength : t.sec.length = s.sec.length
  buf : showsBuffer i = true → t.buf = s.buf
  sec : showsSecret i = true → t.sec = s.sec

/-- What a command's answer depends on. -/
theorem AlikeFor.sameAnswer {i : Instr} {s t : State} (h : AlikeFor i s t) : SameAnswer s t (exec i s) (exec i t) := by
  have session (hi : showsSecret i = true) : SameSession s t := ⟨h.cfg, h.hs, h.sec hi⟩
  cases i with
  | nop | ckv _ | ckg _ | ksched _ | enc _ _ | dec _ _ | msplit _ => exact (exec_constantReply rfl).sameAnswer s t
  | feed arrived => exact execFeed_sameAnswer h.cfg (h.buf rfl) arrived
  | flush => exact .reply (.setBuf []) _ _
  | disc => exact .reply .disconnect _ _
  | stat =>
    simp only [exec, execStat, statusView, h.hs, h.bufLength, h.secLength]
    exact .keep _ _
  | ipwrap hdr payload => exact (session rfl).execIpwrap hdr payload
  | ipunwrap wire => exact (session rfl).execIpunwrap wire
  | hsconn => exact (session rfl).execHsconn

/-- A write leaves alike what was alike: what it puts in place of an element is its own, or the configuration's. -/
theorem SameBlock.apply {s t : State} (h : SameBlock s t) (w : Write) : SameBlock (w.apply s) (w.apply t) := by
  obtain ⟨hcfg, hbuf, hhs, hsec⟩ := h
  cases w with
  | keep => exact ⟨hcfg, hbuf, hhs, hsec⟩
  | setBuf b => exact ⟨hcfg, rfl, hhs, hsec⟩
  | awaitAck => exact ⟨hcfg, hbuf, rfl, hsec⟩
  | fail => exact ⟨hcfg, hbuf, rfl, hsec⟩
  | install k => exact ⟨hcfg, hbuf, rfl, rfl⟩
  | disconnect => exact ⟨hcfg, rfl, rfl, congrArg Config.cfgPw hcfg⟩

theorem SameBlock.alikeFor {s t : State} (h : SameBlock s t) (i : Instr) : AlikeFor i s t :=
  ⟨h.cfg, h.hs, congrArg List.length h.buf, congrArg List.length h.sec, fun _ => h.buf, fun _ => h.sec⟩

/-- Settles O10: the same write from states that agree on the block leaves states that do. -/
theorem commandsDependOnlyOnTheBlock : Obligations.CommandsDependOnlyOnTheBlock := by
  intro i s₁ s₂ t₁ hb h
  obtain ⟨w, packet, rfl, h₂⟩ := (hb.alikeFor i).sameAnswer.next h
  obtain ⟨hcfg, hbuf, hhs, hsec⟩ := hb.apply w
  exact ⟨_, packet, h₂, ⟨hcfg, hbuf, hhs, hsec⟩, by simp, by simp⟩

/-- States alike for a command, with the same responses before it, have the same after it. -/
theorem AlikeFor.responses_eq {i : Instr} {s t s' : State} (h : AlikeFor i s t) (hr : t.responses = s.responses)
    (he : exec i s = .next s') : ∃ t', exec i t = .next t' ∧ t'.responses = s'.responses := by
  obtain ⟨w, packet, rfl, ht⟩ := h.sameAnswer.next he
  exact ⟨_, ht, by simp [hr]⟩

theorem showsSecret_eq_false {i : Instr} (hwrap : ∀ hdr payload, i ≠ .ipwrap hdr payload)
    (hunwrap : ∀ wire, i ≠ .ipunwrap wire) (hconn : i ≠ .hsconn) : showsSecret i = false := by
  cases i with
  | ipwrap hdr payload => exact absurd rfl (hwrap hdr payload)
  | ipunwrap wire => exact absurd rfl (hunwrap wire)
  | hsconn => exact absurd rfl hconn
  | _ => rfl

theorem showsBuffer_eq_false {i : Instr} (hfeed : ∀ arrived, i ≠ .feed arrived) : showsBuffer i = false := by
  cases i with
  | feed arrived => exact absurd rfl (hfeed arrived)
  | _ => rfl

/-- Settles O19: a state with another secret, or another buffer, of the same length is alike for the commands that show
neither. -/
theorem hiddenStateStaysHidden : Obligations.HiddenStateStaysHidden := by
  constructor
  · intro i s t k h hk hwrap hunwrap hconn
    have hidden := showsSecret_eq_false hwrap hunwrap hconn
    have alike : AlikeFor i s { s with sec := k } := ⟨rfl, rfl, rfl, hk, fun _ => rfl, by simp [hidden]⟩
    exact alike.responses_eq rfl h
  · intro i s t b h hb hfeed
    have hidden := showsBuffer_eq_false hfeed
    have alike : AlikeFor i s { s with buf := b } := ⟨rfl, rfl, hb, rfl, by simp [hidden], fun _ => rfl⟩
    exact alike.responses_eq rfl h

end Sys2Proof.Machine
end

section
/-! The refusals of a step (R47, R232). -/

namespace Sys2Proof.Machine

theorem configWf_iff {cfg : Config} :
    configWf cfg = true ↔ cfg.cfgPw.length ≤ 32 ∧ (messageTypes cfg).Nodup ∧ cfg.cmdConnect ≠ cfg.cmdMulticommand ∧
      layoutWf cfg.layout = true := by
  simp only [configWf, keyLen, Bool.and_eq_true, decide_eq_true_eq, and_assoc]

theorem step_of_not_configWf {s : State} (hc : ¬ configWf s.cfg = true) : step s = .refused .configOutsideSpec :=
  step_of_configWf_false (Bool.eq_false_of_not_eq_true hc)

/-- Settles O8: each condition of the second clause is the negation of one that R232 puts on a configuration. -/
theorem runsWithoutStepAreRefused : Obligations.RunsWithoutStepAreRefused := by
  constructor
  · intro s first second rest hc hp
    exact step_of_port_overlapping hc hp
  · intro s hout
    refine step_of_not_configWf fun hc => ?_
    obtain ⟨hpw, htypes, hcmd, -⟩ := configWf_iff.mp hc
    rcases hout with hlong | hsame | hdup
    · exact absurd hpw (Nat.not_le.mpr hlong)
    · exact hcmd hsame
    · exact hdup htypes

end Sys2Proof.Machine
end

section
/-! The command packet (R60 to R63): the operand loop reads back exactly what `lengthPrefixed` wrote, and so decoding and
encoding undo each other; what a packet that is no command's is answered (R61, R66). -/

namespace Sys2Proof

open Sys2Proof.Machine

theorem fieldFits_iff {b : Bytes} : fieldFits b = true ↔ b.length ≤ 65535 := by
  simp only [fieldFits, decide_eq_true_eq]

theorem Instr.wf_iff {i : Instr} : i.wf = true ↔ ∀ b ∈ i.operands, b.length ≤ 65535 := by
  simp only [Instr.wf, List.all_eq_true, fieldFits_iff]

/-- R60, R61: the loop reads every operand back and finds no trailing byte. -/
theorem takeOperands_flatMap_lengthPrefixed {ops : List Bytes} (h : ∀ b ∈ ops, b.length ≤ 65535) :
    takeOperands ops.length (ops.flatMap lengthPrefixed) = .ok ops := by
  induction ops with
  | nil => rfl
  | cons b ops ih =>
    obtain ⟨hb, hops⟩ := List.forall_mem_cons.mp h
    rw [List.length_cons, List.flatMap_cons, takeOperands_cons hb, ih hops]

/-- The length word is the only one for the bytes it announces. -/
theorem lengthPrefixed_take {lo hi : Byte} {rest : Bytes} (h : u16 lo hi ≤ rest.length) :
    lengthPrefixed (rest.take (u16 lo hi)) = lo :: hi :: rest.take (u16 lo hi) := by
  rw [lengthPrefixed, List.length_take_of_le h, le16_u16]
  rfl

/-- R61: what the loop accepts is `n` operands that fit, each with its length word, and nothing after them. -/
theorem takeOperands_eq_ok {n : Nat} {rest : Bytes} {ops : List Bytes} (h : takeOperands n rest = .ok ops) :
    ops.length = n ∧ (∀ b ∈ ops, b.length ≤ 65535) ∧ ops.flatMap lengthPrefixed = rest := by
  induction n generalizing rest ops with
  | zero =>
    cases rest with
    | nil => cases h; simp
    | cons b more => cases h
  | succ n ih =>
    match rest, h with
    | lo :: hi :: rest, h =>
      rw [takeOperands] at h
      split at h
      · cases h
      · next hfits =>
        have hfits : u16 lo hi ≤ rest.length := Nat.not_lt.mp hfits
        cases hops : takeOperands n (rest.drop (u16 lo hi)) with
        | error e => rw [hops] at h; cases h
        | ok later =>
          rw [hops] at h
          cases h
          obtain ⟨hlen, hfit, hpacket⟩ := ih hops
          have hfirst : (rest.take (u16 lo hi)).length ≤ 65535 := by
            have := u16_lt lo hi
            rw [List.length_take_of_le hfits]
            omega
          refine ⟨congrArg (· + 1) hlen, List.forall_mem_cons.mpr ⟨hfirst, hfit⟩, ?_⟩
          rw [List.flatMap_cons, lengthPrefixed_take hfits, hpacket, List.cons_append, List.cons_append,
            List.take_append_drop]

/-- R61: the row and the operands of a packet that decodes. -/
theorem decode_eq_ok {packet : Bytes} {i : Instr} (h : decode packet = .ok i) :
    ∃ (o : Opcode) (ops : List Bytes), packet = o.code :: ops.flatMap lengthPrefixed ∧ ops.length = o.operandCount ∧
      (∀ b ∈ ops, b.length ≤ 65535) ∧ i = o.build ops := by
  cases packet with
  | nil => cases h
  | cons opc rest =>
    rw [decode] at h
    split at h
    · cases h
    · next o ho =>
      split at h
      · next ops hops =>
        cases h
        obtain ⟨hlen, hfit, rfl⟩ := takeOperands_eq_ok hops
        exact ⟨o, ops, by rw [Opcode.code_of_ofByte ho], hlen, hfit, rfl⟩
      · cases h

/-- R63: a command built from as many operands as its row says has that row. -/
@[simp] theorem Opcode.opcode_build (o : Opcode) (ops : List Bytes) : (o.build ops).opcode = o := by
  cases o <;> rfl

theorem Opcode.operands_build {o : Opcode} {ops : List Bytes} (h : ops.length = o.operandCount) :
    (o.build ops).operands = ops := by
  match o, ops, h with
  | .nop, [], _ | .flush, [], _ | .hsconn, [], _ | .stat, [], _ | .disc, [], _ => rfl
  | .ckv, [_], _ | .ckg, [_], _ | .feed, [_], _ | .ksched, [_], _ | .ipunwrap, [_], _ | .msplit, [_], _ => rfl
  | .enc, [_, _], _ | .dec, [_, _], _ | .ipwrap, [_, _], _ => rfl

/-- Settles O1: the opcode byte names the command's row, and the loop reads its operands back. -/
theorem decodeEncodeRoundTrip : Obligations.DecodeEncodeRoundTrip := by
  intro i hwf
  have hops : takeOperands i.opcode.operandCount (i.operands.flatMap lengthPrefixed) = .ok i.operands := by
    rw [← Instr.operands_length]
    exact takeOperands_flatMap_lengthPrefixed (Instr.wf_iff.mp hwf)
  simp only [encode, decode, Opcode.ofByte_code, hops, Opcode.build_operands]

/-- Settles O2: what the loop accepts is what `encode` writes. -/
theorem encodeDecodeRoundTrip : Obligations.EncodeDecodeRoundTrip := by
  intro packet i h
  obtain ⟨o, ops, rfl, hlen, hfit, rfl⟩ := decode_eq_ok h
  have hoperands := Opcode.operands_build hlen
  constructor
  · rwa [Instr.wf_iff, hoperands]
  · rw [encode, Opcode.opcode_build, hoperands]

/-- Settles O3, by evaluation of the decoder on the packets R60 and R63 give. -/
theorem decodeSpecPackets : Obligations.DecodeSpecPackets := by
  unfold Obligations.DecodeSpecPackets
  decide

/-- R61: an illegal opcode is no error of the operand loop. -/
theorem takeOperands_ne_illegalOpcode (n : Nat) (rest : Bytes) : takeOperands n rest ≠ .error .illegalOpcode := by
  fun_induction takeOperands n rest with
  | case5 n lo hi rest hfits e he ih => rwa [he] at ih
  | _ => simp

/-- R63: a byte names no row iff it is none of the 14 opcodes. -/
theorem Opcode.ofByte_eq_none_iff {b : Byte} : Opcode.ofByte b = none ↔ b ∉ Opcode.all.map Opcode.code := by
  simp [Opcode.ofByte]

/-- R63: the 14 opcodes. -/
theorem Opcode.map_code_all : Opcode.all.map Opcode.code =
    [0x00, 0x01, 0x02, 0x10, 0x11, 0x20, 0x21, 0x22, 0x30, 0x31, 0x32, 0x33, 0x3E, 0x3F] := rfl

/-- R61, R66: the error of a packet with an opcode byte is the illegal opcode's iff that byte is none of the 14. -/
theorem eq_illegalOpcode_iff_of_decode_error {opc : Byte} {rest : Bytes} {e : DecodeError}
    (h : decode (opc :: rest) = .error e) : e = .illegalOpcode ↔ opc ∉ Opcode.all.map Opcode.code := by
  rw [← Opcode.ofByte_eq_none_iff]
  rw [decode] at h
  split at h
  · next hnone =>
    cases h
    exact iff_of_true rfl hnone
  · next o hsome =>
    have hne : e ≠ .illegalOpcode := by
      rintro rfl
      split at h
      · cases h
      · next he =>
        cases h
        exact takeOperands_ne_illegalOpcode _ _ he
    exact iff_of_false hne (by simp [hsome])

/-- R60: a packet that is no command's does not decode. -/
theorem decode_eq_error_of_forall_encode_ne {packet : Bytes} (h : ∀ i : Instr, i.wf = true → encode i ≠ packet) :
    ∃ e, decode packet = .error e := by
  cases hd : decode packet with
  | error e => exact ⟨e, rfl⟩
  | ok i =>
    obtain ⟨hwf, henc⟩ := encodeDecodeRoundTrip packet i hd
    exact absurd henc (h i hwf)

/-- Settles O4: a packet that is no command's does not decode, and its error says which of the two statuses answers it. -/
theorem undecodedPacketsChangeNoState : Obligations.UndecodedPacketsChangeNoState := by
  intro s packet rest hc hp hno
  obtain ⟨e, he⟩ := decode_eq_error_of_forall_encode_ne hno
  rw [step_of_port_command hc hp, runPacket_of_decode_error he, replyUndecoded_eq_answered]
  cases packet with
  | nil =>
    cases he
    rfl
  | cons opc more =>
    have hill := eq_illegalOpcode_iff_of_decode_error he
    rw [Opcode.map_code_all] at hill
    rcases decodeErrorStatus_cases e with ⟨heq, hst⟩ | ⟨hne, hst⟩
    · simp only [hst, if_neg (hill.mp heq)]
      rfl
    · simp only [hst, if_pos (not_not.mp (mt hill.mpr hne))]
      rfl

/-- R61: a byte after an opcode without operands is no packet. -/
theorem decode_cons_cons_of_operandCount_zero {o : Opcode} (h : o.operandCount = 0) (b : Byte) (more : Bytes) :
    decode (o.code :: b :: more) = .error .trailingBytes := by
  simp only [decode, Opcode.ofByte_code, h, takeOperands]

/-- Settles O21: each command is one reply, and its packet is its opcode alone. -/
theorem nopAndFlushResult : Obligations.NopAndFlushResult := by
  refine ⟨fun s => ⟨reply_eq_answered s .ok [], exec_flush_eq s⟩, rfl, rfl, fun b more => ⟨?_, ?_, rfl⟩⟩
  · exact decode_cons_cons_of_operandCount_zero (o := .nop) rfl b more
  · exact decode_cons_cons_of_operandCount_zero (o := .flush) rfl b more

end Sys2Proof
end

section
/-! The response packet (R62, R64): what its host reads back, and that no command answers a field longer than 65535
bytes (R69). -/

namespace Sys2Proof.Machine

/-- R62: a field that fits is read back, and the rest of the packet after it. -/
theorem parseFields_cons {f : Bytes} (h : f.length ≤ 65535) (fuel : Nat) (rest : Bytes) :
    parseFields (fuel + 1) (lengthPrefixed f ++ rest) = (parseFields fuel rest).map (f :: ·) := by
  have hu : u16 (lowByte f.length) (lowByte (f.length >>> 8)) = f.length := by
    rw [u16_le16]
    omega
  simp [lengthPrefixed, le16, parseFields, hu]

/-- R62: all fields are read back; a field takes at least two bytes, so the packet's length bounds their number. -/
theorem parseFields_flatMap_lengthPrefixed {fields : List Bytes} {fuel : Nat} (h : ∀ f ∈ fields, f.length ≤ 65535)
    (hfuel : (fields.flatMap lengthPrefixed).length ≤ fuel) :
    parseFields fuel (fields.flatMap lengthPrefixed) = some fields := by
  induction fields generalizing fuel with
  | nil => cases fuel <;> rfl
  | cons f fields ih =>
    obtain ⟨hf, hfields⟩ := List.forall_mem_cons.mp h
    rw [List.flatMap_cons, List.length_append, lengthPrefixed_length] at hfuel
    obtain ⟨fuel, rfl⟩ : ∃ k, fuel = k + 1 := ⟨fuel - 1, by omega⟩
    rw [List.flatMap_cons, parseFields_cons hf, ih hfields (by omega), Option.map_some]

/-- Settles O5: the code names its status, and the fields are read back one after another. -/
theorem responsePacketRoundTrip : Obligations.ResponsePacketRoundTrip := by
  intro st fields h
  rw [← encode_eq_responsePacket, Response.encode_mk]
  simp only [parseResponse, Status.ofByte_code, parseFields_flatMap_lengthPrefixed h le_rfl]

/-- R69: the outcome is no response with a field past its 16-bit length. -/
inductive FitAnswer : Host.Outcome State Fault Refusal → Prop
  | reply (s : State) (st : Status) {fields : List Bytes} (fit : ∀ f ∈ fields, f.length ≤ 65535) :
      FitAnswer (reply s st fields)
  | refused (r : Refusal) : FitAnswer (.refused r)

theorem FitAnswer.ite {c : Prop} [Decidable c] {a b : Host.Outcome State Fault Refusal} (ha : c → FitAnswer a)
    (hb : ¬c → FitAnswer b) : FitAnswer (if c then a else b) := by
  split
  · next hc => exact ha hc
  · next hc => exact hb hc

theorem FitAnswer.noFields (s : State) (st : Status) : FitAnswer (Machine.reply s st []) :=
  .reply s st (by simp)

theorem FitAnswer.oneField (s : State) (st : Status) {f : Bytes} (h : f.length ≤ 65535) :
    FitAnswer (Machine.reply s st [f]) :=
  .reply s st (by simpa using h)

/-- The packet of a fitting answer is a response packet with fitting fields. -/
theorem FitAnswer.packet_eq {s : State} {packet : Bytes} (h : FitAnswer (.next (s.answered packet))) :
    ∃ (st : Status) (fields : List Bytes), packet = responsePacket st.code fields ∧ ∀ f ∈ fields, f.length ≤ 65535 := by
  generalize ho : Host.Outcome.next (s.answered packet) = o at h
  cases h with
  | refused r => cases ho
  | @reply u st fields fit =>
    rw [reply_eq_answered, Host.Outcome.next.injEq] at ho
    have hresponses := congrArg State.responses ho
    rw [answered_responses, answered_responses] at hresponses
    exact ⟨st, fields, List.singleton_inj.mp (List.append_inj_right' hresponses rfl), fit⟩

/-- R112: the candidate slice and the 37-byte slice are at most 255 bytes. -/
theorem length_le_of_mem_scanLoop {n : Nat} {b f : Bytes} (h : f ∈ (scanLoop n b).1) : f.length ≤ 255 := by
  induction n generalizing b with
  | zero => cases h
  | succ n ih =>
    rw [scanLoop] at h
    cases hp : scanPass b with
    | stop => simp [hp] at h
    | emit frame rest =>
      obtain ⟨-, -, h255, -⟩ := scanPass_emit hp
      simp only [hp, List.mem_cons] at h
      rcases h with rfl | h
      · exact h255
      · exact ih h
    | drop rest =>
      simp only [hp] at h
      exact ih h

/-- R170: a segment's length is a byte. -/
theorem length_le_of_mem_splitLoop {n : Nat} {p g : Bytes} {segs : List Bytes} (h : splitLoop n p = some segs)
    (hg : g ∈ segs) : g.length ≤ 255 := by
  fun_induction splitLoop n p generalizing segs with
  | case1 => cases h; cases hg
  | case2 => cases h
  | case3 => cases h
  | case4 fuel len rest _ ih =>
    obtain ⟨later, hlater, rfl⟩ := Option.map_eq_some_iff.mp h
    rcases List.mem_cons.mp hg with rfl | hg
    · have := len.isLt
      rw [List.length_take]
      omega
    · exact ih hlater hg

theorem length_le_of_mem_split {p g : Bytes} {segs : List Bytes} (h : split p = some segs) (hg : g ∈ segs) :
    g.length ≤ 255 :=
  length_le_of_mem_splitLoop h hg

theorem length_le_of_mem_frameSegments {cfg : Config} {h : WireHeader} {pl g : Bytes} {segs : List Bytes}
    (hs : frameSegments cfg h pl = some segs) (hg : g ∈ segs) : g.length ≤ 255 := by
  unfold frameSegments at hs
  split at hs
  · exact length_le_of_mem_split hs hg
  · cases hs
    cases hg

/-- R145, R146: the ciphertext is as long as the padded plaintext. -/
theorem encrypt_length (m p : Bytes) : (encrypt m p).length = (padMessage m).length := by
  have hwhole : (padMessage m).length % 16 = 0 := by rw [padMessage_length, pad16_mod]
  simp [encrypt, blocks, blockLen, List.length_flatMap]
  omega

/-- R147: whole blocks are deciphered to as many bytes. -/
theorem decrypt_length_le (c p : Bytes) : (decrypt c p).length ≤ c.length := by
  simp [decrypt, blocks, blockLen, List.length_flatMap]
  omega

theorem foldl_expandStep_length (is : List Nat) (w : List Quad) :
    (is.foldl expandStep w).length = w.length + is.length := by
  induction is generalizing w with
  | nil => rfl
  | cons i is ih =>
    rw [List.foldl_cons, ih, expandStep, List.length_append, List.length_singleton, List.length_cons]
    omega

/-- R136: 60 words. -/
@[simp] theorem expand_length (k : Bytes) : (expand k).length = 60 := by
  simp [expand, foldl_expandStep_length, scheduleWords]

/-- R137: 240 bytes of key material. -/
theorem keySchedule_bytes_length (p : Bytes) : ((keySchedule p).flatMap Quad.bytes).length = 240 := by
  simp [keySchedule, List.length_flatMap]

theorem parseLength_le (cfg : Config) (w : Bytes) : parseLength cfg w ≤ 65535 :=
  Nat.le_of_lt_succ (u16_lt _ _)

/-- R165: the payload of a frame is cut to the header's length. -/
theorem framePayload_length_le (s : State) (w : Bytes) : (framePayload s w).length ≤ parseLength s.cfg w := by
  unfold framePayload
  dsimp only
  split
  · next hclear =>
    rw [slice_length, frameEnd, wireLength, if_pos hclear]
    omega
  · exact List.length_take_le _ _

theorem execEnc_fitAnswer (m p : Bytes) (s : State) : FitAnswer (execEnc m p s) :=
  .ite (fun _ => .noFields _ _) fun _ => .ite (fun _ => .noFields _ _) fun hshort =>
    .oneField _ _ (by rw [encrypt_length]; exact Nat.not_lt.mp hshort)

theorem execDec_fitAnswer {c : Bytes} (hc : c.length ≤ 65535) (p : Bytes) (s : State) : FitAnswer (execDec c p s) :=
  .ite (fun _ => .noFields _ _) fun _ => .ite (fun _ => .noFields _ _) fun _ =>
    .oneField _ _ ((decrypt_length_le c p).trans hc)

theorem execIpwrap_fitAnswer (hdr p : Bytes) (s : State) : FitAnswer (execIpwrap hdr p s) := by
  refine .ite (fun _ => .noFields _ _) fun _ => ?_
  cases headerOperand hdr with
  | none => exact .noFields _ _
  | some h =>
    refine .ite (fun _ => .noFields _ _) fun _ => .ite (fun _ => .noFields _ _) fun hshort => .oneField _ _ ?_
    rw [List.length_append, buildHeader_length]
    exact Nat.not_lt.mp hshort

theorem execIpunwrap_fitAnswer (wire : Bytes) (s : State) : FitAnswer (execIpunwrap wire s) := by
  have consumed (u : State) (st : Status) (n : Nat) : FitAnswer (reply u st [le16 n]) := .oneField _ _ (by simp)
  refine .ite (fun _ => .noFields _ _) fun _ => .ite (fun _ => .noFields _ _) fun _ =>
    .ite (fun _ => consumed _ _ _) fun _ => .ite (fun _ => .noFields _ _) fun _ => .ite (fun _ => consumed _ _ _) fun _ => ?_
  cases connectCheck s (parseHeader s.cfg wire) (framePayload s wire) with
  | none => exact consumed _ _ _
  | some u =>
    cases hsegs : frameSegments s.cfg (parseHeader s.cfg wire) (framePayload s wire) with
    | none => exact consumed _ _ _
    | some segs =>
      have hpayload : (framePayload s wire).length ≤ 65535 := (framePayload_length_le s wire).trans (parseLength_le _ _)
      have hsegments : ∀ g ∈ segs, g.length ≤ 65535 := fun g hg =>
        (length_le_of_mem_frameSegments hsegs hg).trans (by omega)
      exact .reply _ _ (by simpa using ⟨hpayload, hsegments⟩)

theorem execHsconn_fitAnswer {s : State} (hsec : s.sec.length ≤ 32) : FitAnswer (execHsconn s) := by
  refine .ite (fun _ => .noFields _ _) fun _ => .ite (fun _ => .noFields _ _) fun _ => .oneField _ _ ?_
  rw [List.length_append, buildHeader_length]
  omega

theorem execMsplit_fitAnswer (p : Bytes) (s : State) : FitAnswer (execMsplit p s) := by
  unfold execMsplit
  cases hsegs : split p with
  | none => exact .noFields _ _
  | some segs => exact .reply _ _ fun g hg => (length_le_of_mem_split hsegs hg).trans (by omega)

theorem execFeed_fitAnswer (arrived : Bytes) (s : State) : FitAnswer (execFeed arrived s) :=
  .ite (fun _ => .refused _) fun _ => .reply _ _ fun _ hf => (length_le_of_mem_scanLoop hf).trans (by omega)

/-- R69: a command a packet can carry, under a secret of at most 32 bytes, answers no field longer than 65535 bytes. -/
theorem exec_fitAnswer {i : Instr} {s : State} (hwf : i.wf = true) (hsec : s.sec.length ≤ 32) : FitAnswer (exec i s) := by
  cases i with
  | nop | flush | disc => exact .noFields _ _
  | ckv _ | ckg _ => exact .oneField _ _ (by simp)
  | feed arrived => exact execFeed_fitAnswer arrived s
  | ksched p =>
    exact .ite (fun _ => .noFields _ _) fun _ => .oneField _ _ (by rw [keySchedule_bytes_length]; omega)
  | enc m p => exact execEnc_fitAnswer m p s
  | dec c p => exact execDec_fitAnswer (Instr.wf_iff.mp hwf c (by simp [Instr.operands])) p s
  | ipwrap hdr p => exact execIpwrap_fitAnswer hdr p s
  | ipunwrap wire => exact execIpunwrap_fitAnswer wire s
  | hsconn => exact execHsconn_fitAnswer hsec
  | msplit p => exact execMsplit_fitAnswer p s
  | stat => exact .reply _ _ (by simp [statusView])

theorem ResponsesWf.answered {s : State} (h : ResponsesWf s) (st : Status) {fields : List Bytes}
    (fit : ∀ f ∈ fields, f.length ≤ 65535) : ResponsesWf (s.answered (responsePacket st.code fields)) := by
  intro p hp
  rw [answered_responses, List.mem_append, List.mem_singleton] at hp
  rcases hp with hp | rfl
  · exact h p hp
  · rw [responsePacketRoundTrip st fields fit, Option.isSome_some]

/-- The response port alone decides. -/
theorem ResponsesWf.of_responses_eq {s t : State} (h : ResponsesWf s) (ht : t.responses = s.responses) : ResponsesWf t := by
  rwa [ResponsesWf, ht]

/-- Settles O13: a decoded command's answer fits (R60 bounds its operands, the invariant the secret), and a fitting packet
reads back. -/
theorem stepKeepsResponsesWellFormed : Obligations.StepKeepsResponsesWellFormed := by
  intro s t hi hr h
  rcases step_next_cases h with ⟨-, rfl⟩ | ⟨rest, -, rfl⟩ | ⟨_, rest, e, -, -, rfl⟩ |
    ⟨packet, rest, i, w, response, hp, hd, -, rfl⟩
  · exact hr
  · exact hr
  · exact ResponsesWf.answered (s := s.setPort rest) hr (decodeErrorStatus e) (fields := []) (by simp)
  · rw [step_of_port_command hi.config hp, runPacket_of_decode_ok hd] at h
    have hwf : i.wf = true := (encodeDecodeRoundTrip packet i hd).1
    have hfit : FitAnswer (exec i (s.setPort rest)) := exec_fitAnswer hwf hi.secretShort
    rw [h] at hfit
    obtain ⟨st, fields, rfl, fit⟩ := hfit.packet_eq
    have hbefore : ResponsesWf (w.apply (s.setPort rest)) := hr.of_responses_eq (w.apply_responses _)
    exact hbefore.answered st fit

end Sys2Proof.Machine
end

section
/-! The IP150 header (R73): each field stands at its own offset, so building and parsing undo each other. -/

namespace Sys2Proof.Machine

/-- R73: the offsets the header's fields occupy. -/
theorem headerFields_map_fst (cfg : Config) (n : Nat) (h : WireHeader) :
    (headerFields cfg n h).map Prod.fst = 0 :: layoutOffsets cfg.layout := rfl

theorem layoutWf_iff {l : HdrLayout} :
    layoutWf l = true ↔ (∀ o ∈ layoutOffsets l, 1 ≤ o ∧ o < 16) ∧ (layoutOffsets l).Nodup := by
  simp only [layoutWf, hdrLen, Bool.and_eq_true, List.all_eq_true, decide_eq_true_eq]

/-- In a list of pairs with distinct keys, a pair's key finds its value. -/
theorem lookup_eq_some_of_mem {l : List (Nat × Byte)} (hl : (l.map Prod.fst).Nodup) {o : Nat} {v : Byte}
    (h : (o, v) ∈ l) : l.lookup o = some v := by
  induction l with
  | nil => cases h
  | cons q l ih =>
    obtain ⟨hq, hl⟩ := List.nodup_cons.mp hl
    rcases List.mem_cons.mp h with rfl | h
    · exact List.lookup_cons_self
    · have hne : ¬o = q.1 := fun ho => hq (ho ▸ List.mem_map_of_mem h)
      rw [List.lookup_cons, beq_false_of_ne hne, ih hl h]

/-- R73: the byte at an offset. -/
theorem buildHeader_getD (cfg : Config) (n : Nat) (h : WireHeader) {o : Nat} (ho : o < 16) :
    (buildHeader cfg n h).getD o 0x00 = ((headerFields cfg n h).lookup o).getD cfg.hdrFill := by
  simp [buildHeader, hdrLen, ho]

/-- R73: a byte no field occupies is the filler. -/
theorem buildHeader_getD_of_not_mem {cfg : Config} (n : Nat) (h : WireHeader) {o : Nat} (h16 : o < 16)
    (ho : o ∉ 0 :: layoutOffsets cfg.layout) : (buildHeader cfg n h).getD o 0x00 = cfg.hdrFill := by
  have hnone : (headerFields cfg n h).lookup o = none := by
    rw [List.lookup_eq_none_iff]
    intro q hq
    rw [← headerFields_map_fst cfg n h] at ho
    simpa using fun e : o = q.1 => ho (e ▸ List.mem_map_of_mem hq)
  rw [buildHeader_getD cfg n h h16, hnone, Option.getD_none]

section
variable {cfg : Config} (hwf : layoutWf cfg.layout = true)
include hwf

/-- R73: the fields' offsets are distinct bytes of the header. -/
theorem headerFields_map_fst_nodup (n : Nat) (h : WireHeader) : ((headerFields cfg n h).map Prod.fst).Nodup := by
  rw [headerFields_map_fst]
  obtain ⟨hrange, hnodup⟩ := layoutWf_iff.mp hwf
  exact List.nodup_cons.mpr ⟨fun h0 => absurd (hrange 0 h0).1 (by omega), hnodup⟩

theorem headerOffset_lt {o : Nat} (ho : o ∈ 0 :: layoutOffsets cfg.layout) : o < 16 := by
  rcases List.mem_cons.mp ho with rfl | ho
  · omega
  · exact ((layoutWf_iff.mp hwf).1 o ho).2

/-- R73: each field's byte is at its offset, whatever follows the header. -/
theorem buildHeader_append_getD_of_mem {n : Nat} {h : WireHeader} {o : Nat} {v : Byte}
    (hmem : (o, v) ∈ headerFields cfg n h) (after : Bytes) : (buildHeader cfg n h ++ after).getD o 0x00 = v := by
  have ho : o < 16 := headerOffset_lt hwf (List.mem_map_of_mem (f := Prod.fst) hmem)
  have hlookup : (headerFields cfg n h).lookup o = some v := lookup_eq_some_of_mem (headerFields_map_fst_nodup hwf n h) hmem
  rw [List.getD_append _ _ _ _ (by rwa [buildHeader_length]), buildHeader_getD cfg n h ho, hlookup, Option.getD_some]

theorem buildHeader_getD_of_mem {n : Nat} {h : WireHeader} {o : Nat} {v : Byte}
    (hmem : (o, v) ∈ headerFields cfg n h) : (buildHeader cfg n h).getD o 0x00 = v := by
  rw [← List.append_nil (buildHeader cfg n h), buildHeader_append_getD_of_mem hwf hmem]

/-- R73, R165: the length that was built is parsed. -/
theorem parseLength_buildHeader {n : Nat} (hn : n < 65536) (h : WireHeader) (after : Bytes) :
    parseLength cfg (buildHeader cfg n h ++ after) = n := by
  have field {o : Nat} {v : Byte} (hmem : (o, v) ∈ headerFields cfg n h) := buildHeader_append_getD_of_mem hwf hmem after
  rw [parseLength, field (v := lowByte n) (by simp [headerFields]), field (v := lowByte (n >>> 8)) (by simp [headerFields]),
    u16_le16, Nat.mod_eq_of_lt hn]

/-- R73, R165: the four header bytes that were built are parsed. -/
theorem parseHeader_buildHeader (n : Nat) (h : WireHeader) (after : Bytes) :
    parseHeader cfg (buildHeader cfg n h ++ after) = h := by
  have field {o : Nat} {v : Byte} (hmem : (o, v) ∈ headerFields cfg n h) := buildHeader_append_getD_of_mem hwf hmem after
  rw [parseHeader, field (v := h.messageType) (by simp [headerFields]), field (v := h.flags) (by simp [headerFields]),
    field (v := h.command) (by simp [headerFields]), field (v := h.subCommand) (by simp [headerFields])]

end

theorem lowByte_shiftRight_eight (n : Nat) : lowByte (n >>> 8) = BitVec.ofNat 8 (n / 256) := by
  rw [lowByte, Nat.shiftRight_eq_div_pow]

/-- R163: the header of the default layout, written out. -/
theorem buildHeader_of_defaultLayout {cfg : Config} (hl : cfg.layout = defaultLayout) (n : Nat) (h : WireHeader) :
    buildHeader cfg n h =
      [0xAA, BitVec.ofNat 8 n, BitVec.ofNat 8 (n / 256), h.messageType, h.flags, h.command, h.subCommand] ++
        List.replicate 9 cfg.hdrFill := by
  rw [buildHeader, headerFields, hl, lowByte_shiftRight_eight]
  rfl

/-- Settles O45: the fields' offsets are distinct, so each byte of the header is one field's or the filler. -/
theorem headerBuildAndParse : Obligations.HeaderBuildAndParse := by
  intro cfg n h hc
  obtain ⟨-, -, -, hwf⟩ := configWf_iff.mp hc
  have field {o : Nat} {v : Byte} (hmem : (o, v) ∈ headerFields cfg n h) := buildHeader_getD_of_mem hwf hmem
  refine ⟨buildHeader_length cfg n h, field (by simp [headerFields]), field (by simp [headerFields, lowByte]), ?_,
    field (by simp [headerFields]), field (by simp [headerFields]), field (by simp [headerFields]),
    field (by simp [headerFields]), ?_, fun hl => buildHeader_of_defaultLayout hl n h, ?_⟩
  · rw [← lowByte_shiftRight_eight]
    exact field (by simp [headerFields])
  · intro o h1 h16 ho
    exact buildHeader_getD_of_not_mem n h h16 (List.not_mem_cons_of_ne_of_not_mem (by omega) ho)
  · exact fun hn after => ⟨parseLength_buildHeader hwf hn h after, parseHeader_buildHeader hwf n h after⟩

end Sys2Proof.Machine
end

section
/-! The pseudo-instructions (R71) and the segments of a multicommand payload (R170). -/

namespace Sys2Proof.Machine

theorem joinSegments_cons (g : Bytes) (segs : List Bytes) :
    joinSegments (g :: segs) = lowByte g.length :: (g ++ joinSegments segs) := rfl

/-- R170: a payload of segments splits back into them. -/
theorem splitLoop_joinSegments {segs : List Bytes} {fuel : Nat} (h : ∀ g ∈ segs, g.length ≤ 255)
    (hfuel : (joinSegments segs).length ≤ fuel) : splitLoop fuel (joinSegments segs) = some segs := by
  induction segs generalizing fuel with
  | nil => cases fuel <;> rfl
  | cons g segs ih =>
    obtain ⟨hg, hsegs⟩ := List.forall_mem_cons.mp h
    rw [joinSegments_cons, List.length_cons, List.length_append] at hfuel
    obtain ⟨fuel, rfl⟩ : ∃ k, fuel = k + 1 := ⟨fuel - 1, by omega⟩
    rw [joinSegments_cons, splitLoop_cons hg, ih hsegs (by omega), Option.map_some]

theorem split_joinSegments {segs : List Bytes} (h : ∀ g ∈ segs, g.length ≤ 255) : split (joinSegments segs) = some segs :=
  splitLoop_joinSegments h le_rfl

/-- R71: WRAPMC of segments that have a length byte. -/
theorem wrapMc_eq_some {segs : List Bytes} (h : ∀ g ∈ segs, g.length ≤ 255) (cfg : Config) :
    wrapMc cfg segs = some (.ipwrap [cfg.mtIpRequest, 0x00, cfg.cmdMulticommand, 0x00] (joinSegments segs)) :=
  if_pos (by simpa using h)

/-- R71: WRAPMC of a segment that has none. -/
theorem wrapMc_eq_none {segs : List Bytes} (h : ∃ g ∈ segs, 255 < g.length) (cfg : Config) : wrapMc cfg segs = none :=
  if_neg (by simpa using h)

/-- A byte keeps a number modulo 256. -/
theorem lowByte_eq_ofNat_mod (n : Nat) : lowByte n = BitVec.ofNat 8 (n % 256) :=
  BitVec.eq_of_toNat_eq (by simp)

/-- Settles O58: WRAPPT and WRAPPTR are their IPWRAP by definition, WRAPMC by whether each segment has a length byte. -/
theorem pseudoInstructions : Obligations.PseudoInstructions := by
  intro cfg p segs
  have hliteral : frameLiteral p = p ++ [BitVec.ofNat 8 ((p.map BitVec.toNat).sum % 256)] := by
    rw [frameLiteral, checksumByte, lowByte_eq_ofNat_mod, byteSum]
  exact ⟨rfl, rfl, fun h => ⟨wrapMc_eq_some h cfg, split_joinSegments h⟩, fun h => wrapMc_eq_none h cfg, hliteral⟩

end Sys2Proof.Machine
end

section
/-! The checksum (R100 to R103): CKV and CKG in every state, and what the checksum detects. The sum mod 256 of a byte string is
its sum as bytes, so a change of a frame is a calculation in the ring of bytes. -/

namespace Sys2Proof.Machine

/-- R60, R61: the packet of a command with one operand decodes to the command. -/
theorem decode_code_cons_wireField {i : Instr} {f : Bytes} (hops : i.operands = [f]) (hf : f.length ≤ 65535) :
    decode (i.opcode.code :: wireField f) = .ok i := by
  have henc : encode i = i.opcode.code :: wireField f := by
    rw [encode, hops, List.flatMap_singleton, lengthPrefixed_eq_wireField]
  rw [← henc]
  exact decodeEncodeRoundTrip i (Instr.wf_iff.mpr (by simpa [hops] using hf))

/-- R62: a response with one field of one byte. -/
theorem responsePacket_oneByte (code b : Byte) : responsePacket code [[b]] = [code, 0x01, 0x00, b] := by
  simp [responsePacket, wireField]

theorem exec_ckv_eq (f : Bytes) (s : State) :
    exec (.ckv f) s = .next (s.answered [0x00, 0x01, 0x00, boolByte (checksum f)]) :=
  (reply_eq_answered s .ok _).trans (by rw [responsePacket_oneByte, Status.code])

theorem exec_ckg_eq (body : Bytes) (s : State) :
    exec (.ckg body) s = .next (s.answered [0x00, 0x01, 0x00, checksumByte body]) :=
  (reply_eq_answered s .ok _).trans (by rw [responsePacket_oneByte, Status.code])

theorem checksumByte_eq_ofNat_mod (b : Bytes) : checksumByte b = BitVec.ofNat 8 ((b.map BitVec.toNat).sum % 256) :=
  lowByte_eq_ofNat_mod (byteSum b)

/-- R100, in the terms of the rule. -/
theorem checksum_iff (f : Bytes) :
    checksum f = true ↔
      4 ≤ f.length ∧ ((f.take (f.length - 1)).map BitVec.toNat).sum % 256 = (f.getD (f.length - 1) 0x00).toNat := by
  have hlast : f.getLastD 0x00 = f.getD (f.length - 1) 0x00 := by
    rw [List.getLastD_eq_getLast?, List.getLast?_eq_getElem?, List.getD_eq_getElem?_getD]
  rw [checksum, Bool.and_eq_true, decide_eq_true_eq, decide_eq_true_eq, byteSum, List.dropLast_eq_take, hlast]

/-- Settles O24: CKV is one reply with the checksum's byte, and its packet is its opcode and its operand. -/
theorem ckvResult : Obligations.CkvResult := fun f =>
  ⟨checksum_iff f, exec_ckv_eq f, decode_code_cons_wireField (i := .ckv f) rfl⟩

/-- Settles O25: CKG is one reply with the sum's low byte, whatever the length. -/
theorem ckgResult : Obligations.CkgResult := fun body =>
  ⟨fun s => by rw [exec_ckg_eq, checksumByte_eq_ofNat_mod], decode_code_cons_wireField (i := .ckg body) rfl⟩

/-- R102: the sum mod 256 is the sum taken in the bytes. -/
theorem checksumByte_eq_sum (b : Bytes) : checksumByte b = b.sum := by
  induction b with
  | nil => rfl
  | cons x b ih =>
    rw [List.sum_cons, ← ih, checksumByte, checksumByte, byteSum, byteSum, List.map_cons, List.sum_cons, lowByte, lowByte,
      BitVec.ofNat_add, BitVec.ofNat_toNat, BitVec.setWidth_eq]

/-- Writing one body byte moves the sum by the difference. -/
theorem checksumByte_set {b : Bytes} {k : Nat} (hk : k < b.length) (v : Byte) :
    checksumByte (b.set k v) = checksumByte b + (v - b.getD k 0x00) := by
  rw [checksumByte_eq_sum, checksumByte_eq_sum, List.sum_set', dif_pos hk, List.getD_eq_getElem _ _ hk]
  ring

theorem set_length_concat (b : Bytes) (c v : Byte) : (b ++ [c]).set b.length v = b ++ [v] := by
  rw [List.set_append_right _ _ le_rfl, Nat.sub_self, List.set_cons_zero]

theorem getD_length_concat (b : Bytes) (c d : Byte) : (b ++ [c]).getD b.length d = c := by
  rw [List.getD_append_right _ _ _ _ le_rfl, Nat.sub_self, List.getD_cons_zero]

/-- R100: a frame of a body and a last byte. -/
theorem checksum_concat_iff (b : Bytes) (c : Byte) : checksum (b ++ [c]) = true ↔ 3 ≤ b.length ∧ checksumByte b = c := by
  rw [checksum, List.dropLast_concat, List.getLastD_concat, Bool.and_eq_true, decide_eq_true_eq, decide_eq_true_eq,
    List.length_append, List.length_singleton, ← lowByte_toNat, ← checksumByte, BitVec.toNat_inj]
  exact and_congr_left' Nat.succ_le_succ_iff

/-- A valid frame is a body of at least 3 bytes and the byte CKG computes. -/
theorem eq_concat_of_checksum {f : Bytes} (h : checksum f = true) : ∃ b, f = b ++ [checksumByte b] ∧ 3 ≤ b.length := by
  obtain rfl | ⟨b, c, rfl⟩ := f.eq_nil_or_concat
  · cases h
  · rw [List.concat_eq_append] at h ⊢
    obtain ⟨hlen, rfl⟩ := (checksum_concat_iff b c).mp h
    exact ⟨b, rfl, hlen⟩

/-- Two body bytes at different places: each difference moves the sum. -/
theorem checksumByte_set_set {b : Bytes} {j k : Nat} (hj : j < b.length) (hk : k < b.length) (hjk : j ≠ k) (u v : Byte) :
    checksumByte ((b.set j u).set k v) = checksumByte b + (u - b.getD j 0x00) + (v - b.getD k 0x00) := by
  have hkeep : (b.set j u).getD k 0x00 = b.getD k 0x00 := by
    rw [List.getD_eq_getElem?_getD, List.getElem?_set_ne hjk, ← List.getD_eq_getElem?_getD]
  rw [checksumByte_set (by rwa [List.length_set]), checksumByte_set hj, hkeep]

section

variable {f : Bytes} (valid : checksum f = true)
include valid

/-- R103: the new sum differs from the old one by the change alone, so it is not the last byte; and another last byte is not the
sum. -/
theorem checksum_set_eq_false {k : Nat} {v : Byte} (hk : k < f.length) (hv : v ≠ f.getD k 0x00) :
    checksum (f.set k v) = false := by
  obtain ⟨b, rfl, -⟩ := eq_concat_of_checksum valid
  rw [List.length_append, List.length_singleton] at hk
  refine Bool.eq_false_iff.mpr fun still => ?_
  obtain hbody | rfl := Nat.lt_succ_iff_lt_or_eq.mp hk
  · rw [List.set_append_left _ _ hbody, checksum_concat_iff, checksumByte_set hbody, add_eq_left, sub_eq_zero] at still
    rw [List.getD_append _ _ _ _ hbody] at hv
    exact hv still.2
  · rw [set_length_concat, checksum_concat_iff] at still
    rw [getD_length_concat] at hv
    exact hv still.2.symm

/-- R103: two body bytes replaced by two of the same sum. -/
theorem checksum_set_set {j k : Nat} {u v : Byte} (hj : j + 1 < f.length) (hk : k + 1 < f.length) (hjk : j ≠ k)
    (hsum : u + v = f.getD j 0x00 + f.getD k 0x00) : checksum ((f.set j u).set k v) = true := by
  obtain ⟨b, rfl, hlen⟩ := eq_concat_of_checksum valid
  rw [List.length_append, List.length_singleton, Nat.add_lt_add_iff_right] at hj hk
  rw [List.getD_append _ _ _ _ hj, List.getD_append _ _ _ _ hk] at hsum
  rw [List.set_append_left _ _ hj, List.set_append_left _ _ (by rwa [List.length_set]), checksum_concat_iff, List.length_set,
    List.length_set, checksumByte_set_set hj hk hjk]
  exact ⟨hlen, by linear_combination hsum⟩

/-- R103: a body byte and the checksum byte moved by the same amount. -/
theorem checksum_set_set_last {k : Nat} (hk : k + 1 < f.length) (d : Byte) :
    checksum ((f.set k (f.getD k 0x00 + d)).set (f.length - 1) (f.getD (f.length - 1) 0x00 + d)) = true := by
  obtain ⟨b, rfl, hlen⟩ := eq_concat_of_checksum valid
  rw [List.length_append, List.length_singleton, Nat.add_lt_add_iff_right] at hk
  have hbody (v : Byte) : ((b ++ [checksumByte b]).set k v).set b.length (checksumByte b + d) =
      b.set k v ++ [checksumByte b + d] := by
    rw [List.set_append_left _ _ hk, ← List.length_set (as := b) (i := k) (a := v), set_length_concat]
  rw [List.length_append, List.length_singleton, Nat.add_sub_cancel, List.getD_append _ _ _ _ hk, getD_length_concat, hbody,
    checksum_concat_iff, List.length_set, checksumByte_set hk]
  exact ⟨hlen, by ring⟩

/-- R103: an exchange of two body bytes. -/
theorem checksum_exchange {j k : Nat} (hj : j + 1 < f.length) (hk : k + 1 < f.length) :
    checksum ((f.set j (f.getD k 0x00)).set k (f.getD j 0x00)) = true := by
  obtain rfl | hjk := eq_or_ne j k
  · rwa [List.set_set, List.getD_eq_getElem _ _ (by omega), List.set_getElem_self]
  · exact checksum_set_set valid hj hk hjk (add_comm _ _)

end

/-- Settles O26: a change keeps a frame valid iff it moves the body's sum and the last byte alike. -/
theorem checksumDetection : Obligations.ChecksumDetection := by
  refine ⟨fun b => ?_, fun f k v valid hk hv => checksum_set_eq_false valid hk hv, fun f j k d valid hjk hk => ?_,
    fun f k d valid hk => checksum_set_set_last valid hk d, fun f j k valid hj hk => checksum_exchange valid hj hk⟩
  · rw [← checksumByte_eq_ofNat_mod, checksum_concat_iff, and_iff_left rfl]
  · exact checksum_set_set valid (by omega) hk hjk.ne (by ring)

end Sys2Proof.Machine
end

section
/-! The framer (R110 to R121): the candidate length, the loop of the scan with an equation for each way a pass ends and one
induction over its passes, FEED, and when the frames depend only on what arrived. -/

namespace Sys2Proof.Machine

/-- R110: the three marker nibbles, as numbers. -/
theorem shiftRight_mem_markerNibbles_iff (b : Byte) :
    b >>> 4 ∈ markerNibbles ↔ b.toNat / 16 = 0 ∨ b.toNat / 16 = 15 ∨ b.toNat / 16 = 12 := by
  simp [← BitVec.toNat_inj, Nat.shiftRight_eq_div_pow]

/-- Settles O27: the marker test reads the high nibble of byte 0, and byte 1 is the length otherwise. -/
theorem candidateLength : Obligations.CandidateLength := by
  intro b0 b1 b2 b3 rest
  simp only [cand, List.getD_cons_zero, List.getD_cons_succ, shiftRight_mem_markerNibbles_iff]

/-- R110: bytes behind the first two do not change the candidate length. -/
theorem cand_append {b : Bytes} (h : 2 ≤ b.length) (x : Bytes) : cand (b ++ x) = cand b := by
  simp only [cand, List.getD_append _ _ _ _ (show 0 < b.length by omega), List.getD_append _ _ _ _ (show 1 < b.length by omega)]

/-- R113: the candidate slice is a whole frame. -/
abbrev CandidateFrame (b : Bytes) : Prop :=
  4 ≤ cand b ∧ cand b ≤ b.length ∧ checksum (b.take (cand b)) = true

/-- R112: one pass. A buffer of fewer than 4 bytes has no candidate frame, so step 1 stops where step 4 would. -/
theorem scanPass_eq (b : Bytes) :
    scanPass b =
      if CandidateFrame b then .emit (b.take (cand b)) (b.drop (cand b))
      else if 37 ≤ b.length then
        if checksum (b.take 37) = true then .emit (b.take 37) (b.drop 37)
        else if 37 ≤ cand b ∧ cand b ≤ 71 then .stop
        else .drop (b.drop 1)
      else .stop := by
  by_cases h4 : b.length < 4
  · rw [if_neg (fun hc : CandidateFrame b => by omega), if_neg (by omega)]
    exact if_pos h4
  · exact if_neg h4

/-- R117: where the scan stops at once. -/
theorem atRest_iff {b : Bytes} :
    AtRest b ↔ ¬ CandidateFrame b ∧ (37 ≤ b.length → checksum (b.take 37) = false ∧ 37 ≤ cand b ∧ cand b ≤ 71) := by
  rw [AtRest, scanPass_eq]
  split_ifs with hc h37 hk hw
  · simp [hc]
  · simp [h37, hk]
  · simp [hc, h37, hk, hw]
  · simp [h37, hw]
  · simp [hc, h37]

/-- R117: a pass that does not return removes a byte. -/
theorem length_lt_of_scanPass {b frame rest : Bytes} (h : scanPass b = .emit frame rest ∨ scanPass b = .drop rest) :
    rest.length < b.length := by
  rcases h with h | h
  · obtain ⟨rfl, h4, -, -⟩ := scanPass_emit h
    rw [List.length_append]
    omega
  · obtain ⟨rfl, h37⟩ := scanPass_drop h
    rw [List.length_drop]
    omega

/-- R112: any bound of at least the buffer's length gives the scan. -/
theorem scan_eq_scanLoop {n : Nat} {b : Bytes} (h : b.length ≤ n) : scan b = scanLoop n b :=
  scanLoop_of_length_le le_rfl h

theorem scan_of_stop {b : Bytes} (h : scanPass b = .stop) : scan b = ([], b) := by
  simp only [scan_eq_scanLoop (Nat.le_succ b.length), scanLoop, h]

theorem scan_of_emit {b frame rest : Bytes} (h : scanPass b = .emit frame rest) :
    scan b = (frame :: (scan rest).1, (scan rest).2) := by
  have hl := length_lt_of_scanPass (.inl h)
  simp only [scan_eq_scanLoop (Nat.le_succ b.length), scanLoop, h, scan_eq_scanLoop hl.le]

theorem scan_of_drop {b rest : Bytes} (h : scanPass b = .drop rest) : scan b = scan rest := by
  have hl := length_lt_of_scanPass (frame := []) (.inr h)
  simp only [scan_eq_scanLoop (Nat.le_succ b.length), scanLoop, h, scan_eq_scanLoop hl.le]

/-- Induction over the passes of the scan. -/
theorem scan_induction {P : Bytes → Prop} (stop : ∀ b, scanPass b = .stop → P b)
    (emit : ∀ b frame rest, scanPass b = .emit frame rest → P rest → P b)
    (drop : ∀ b rest, scanPass b = .drop rest → P rest → P b) (b : Bytes) : P b := by
  induction hn : b.length using Nat.strong_induction_on generalizing b with
  | _ n ih =>
    subst hn
    cases h : scanPass b with
    | stop => exact stop b h
    | emit frame rest => exact emit b frame rest h (ih _ (length_lt_of_scanPass (.inl h)) rest rfl)
    | drop rest => exact drop b rest h (ih _ (length_lt_of_scanPass (frame := []) (.inr h)) rest rfl)

/-- Settles O28: each branch is one way a pass ends, and the scan goes on from what the pass leaves. -/
theorem scanIsTheLoop : Obligations.ScanIsTheLoop := by
  intro b
  split_ifs with h4 hc h37 hk hw
  · exact scan_of_stop (if_pos h4)
  · exact scan_of_emit (by rw [scanPass_eq, if_pos hc])
  · exact scan_of_emit (by rw [scanPass_eq, if_neg hc, if_pos h37, if_pos hk])
  · exact scan_of_stop (by rw [scanPass_eq, if_neg hc, if_pos h37, if_neg hk, if_pos hw])
  · exact scan_of_drop (by rw [scanPass_eq, if_neg hc, if_pos h37, if_neg hk, if_neg hw])
  · exact scan_of_stop (by rw [scanPass_eq, if_neg hc, if_neg h37])

/-- Settles O30, by induction over the passes: the only pass that emits has checked its slice. -/
theorem emittedFramesAreValid : Obligations.EmittedFramesAreValid := by
  intro b f
  induction b using scan_induction with
  | stop b h => simp [scan_of_stop h]
  | emit b frame rest h ih =>
    obtain ⟨-, h4, h255, valid⟩ := scanPass_emit h
    rw [scan_of_emit h, List.mem_cons]
    rintro (rfl | hf)
    · exact ⟨valid, h4, h255⟩
    · exact ih hf
  | drop b rest h ih => rwa [scan_of_drop h]

/-- R119: the frames and the bytes left, in order, are the buffer less its dropped bytes. -/
theorem scan_sublist (b : Bytes) : List.Sublist ((scan b).1.flatten ++ (scan b).2) b := by
  induction b using scan_induction with
  | stop b h => rw [scan_of_stop h, List.flatten_nil, List.nil_append]
  | emit b frame rest h ih =>
    obtain ⟨rfl, -⟩ := scanPass_emit h
    rw [scan_of_emit h, List.flatten_cons, List.append_assoc]
    exact ih.append_left frame
  | drop b rest h ih =>
    obtain ⟨rfl, -⟩ := scanPass_drop h
    rw [scan_of_drop h]
    exact ih.trans (List.drop_sublist 1 b)

/-- Settles O31: frames are removed from the front one after another, and only leading bytes are dropped between them. -/
theorem framesInArrivalOrder : Obligations.FramesInArrivalOrder := fun b =>
  ⟨scan_sublist b, scan_suffix b⟩

/-- Settles O32: a pass removes a byte or leaves the buffer at rest, and at rest the next pass stops again. -/
theorem scanEndsAtRest : Obligations.ScanEndsAtRest := by
  refine ⟨fun b frame rest => length_lt_of_scanPass, ?_⟩
  rintro b r rfl
  have hrest := scan_atRest b
  obtain ⟨noFrame, waits⟩ := atRest_iff.mp hrest
  refine ⟨?_, scan_of_stop hrest⟩
  obtain h4 | h4 := Nat.lt_or_ge (scan b).2.length 4
  · exact .inl h4
  · obtain h37 | h37 := Nat.lt_or_ge (scan b).2.length 37
    · exact .inr (.inl ⟨h4, h37, noFrame⟩)
    · exact .inr (.inr ⟨h37, noFrame, waits h37⟩)

/-- Settles O29: FEED within BUF_CAP is one reply, past it the refusal, and its packet is its opcode and its operand. -/
theorem feedResult : Obligations.FeedResult := by
  refine fun arrived => ⟨fun s fits => ?_, fun s cap hcap exceeds => ?_, decode_code_cons_wireField (i := .feed arrived) rfl⟩
  · calc exec (.feed arrived) s
      _ = reply (s.setBuf (scan (s.buf ++ arrived)).2) .ok (scan (s.buf ++ arrived)).1 :=
        execFeed_eq_reply ((overCapacity_eq_false_iff s _).mpr fits)
      _ = _ := reply_eq_answered _ .ok _
  · refine execFeed_eq_refused (Bool.eq_true_of_not_eq_false fun within => ?_)
    have := (overCapacity_eq_false_iff s _).mp within cap hcap
    omega

/-- The pass with the bytes `x` behind the buffer. -/
def ScanPass.behind (x : Bytes) : ScanPass → ScanPass
  | .stop => .stop
  | .emit frame rest => .emit frame (rest ++ x)
  | .drop rest => .drop (rest ++ x)

/-- R113: bytes behind a buffer that holds its candidate slice do not change whether the slice is a frame. -/
theorem candidateFrame_append {b : Bytes} (h2 : 2 ≤ b.length) (hview : cand b ≤ b.length) (x : Bytes) :
    CandidateFrame (b ++ x) ↔ CandidateFrame b := by
  rw [CandidateFrame, CandidateFrame, cand_append h2, List.take_append_of_le_length hview, List.length_append]
  simp [hview, hview.trans (Nat.le_add_right _ x.length)]

/-- R119: with a candidate length of at most 37 a pass that does not stop has all it decides on in view, so bytes that arrive
later do not change it. -/
theorem scanPass_append {b : Bytes} (moves : scanPass b ≠ .stop) (short : 4 ≤ b.length → cand b ≤ 37) (x : Bytes) :
    scanPass (b ++ x) = (scanPass b).behind x := by
  have enough : CandidateFrame b ∨ 37 ≤ b.length := by
    by_contra! h
    exact moves (atRest_iff.mpr ⟨h.1, fun h37 => absurd h37 (by omega)⟩)
  have h2 : 2 ≤ b.length := by omega
  have hview : cand b ≤ b.length := by omega
  simp only [scanPass_eq (b ++ x), scanPass_eq b, candidateFrame_append h2 hview, cand_append h2]
  by_cases hc : CandidateFrame b
  · simp only [if_pos hc, ScanPass.behind, List.take_append_of_le_length hview, List.drop_append_of_le_length hview]
  · have h37 : 37 ≤ b.length := enough.resolve_left hc
    have h37' : 37 ≤ (b ++ x).length := h37.trans (by simp)
    simp only [if_neg hc, if_pos h37, if_pos h37', List.take_append_of_le_length h37, List.drop_append_of_le_length h37,
      List.drop_append_of_le_length (show 1 ≤ b.length by omega)]
    split_ifs <;> rfl

/-- The buffer itself is at the front: a pass of `b` goes the same way with `x` behind it. -/
theorem FrontCandidatesShort.scanPass_append {b x : Bytes} (h : FrontCandidatesShort (b ++ x)) (moves : scanPass b ≠ .stop) :
    scanPass (b ++ x) = (scanPass b).behind x := by
  refine Machine.scanPass_append moves (fun h4 => ?_) x
  rw [← cand_append (by omega) x]
  exact h _ (mem_frontBuffers_self _ _) (h4.trans (by simp))

/-- What a pass leaves comes to the front. -/
theorem FrontCandidatesShort.rest {b frame rest : Bytes} (h : FrontCandidatesShort b)
    (hp : scanPass b = .emit frame rest ∨ scanPass b = .drop rest) : FrontCandidatesShort rest := by
  have hl := length_lt_of_scanPass hp
  intro c hc
  refine h c ?_
  rw [frontBuffers_of_length_le le_rfl hl.le] at hc
  rw [frontBuffers_of_length_le le_rfl (Nat.le_succ _), frontBuffers]
  rcases hp with hp | hp <;> simp only [hp] <;> exact List.mem_cons_of_mem _ hc

/-- R119: the scan of `b` and then of what it leaves with `x` behind it gives what one scan of both gives, and `x` brings no
other candidate to the front. -/
theorem scan_append (b : Bytes) {x : Bytes} (h : FrontCandidatesShort (b ++ x)) :
    FrontCandidatesShort ((scan b).2 ++ x) ∧
      scan (b ++ x) = ((scan b).1 ++ (scan ((scan b).2 ++ x)).1, (scan ((scan b).2 ++ x)).2) := by
  induction b using scan_induction with
  | stop b hp => exact ⟨by rwa [scan_of_stop hp], by rw [scan_of_stop hp, List.nil_append]⟩
  | emit b frame rest hp ih =>
    have hbx := h.scanPass_append (by simp [hp])
    rw [hp] at hbx
    obtain ⟨hfront, hscan⟩ := ih (h.rest (.inl hbx))
    rw [scan_of_emit hp, scan_of_emit hbx, hscan]
    exact ⟨hfront, rfl⟩
  | drop b rest hp ih =>
    have hbx := h.scanPass_append (by simp [hp])
    rw [hp] at hbx
    rw [scan_of_drop hp, scan_of_drop hbx]
    exact ih (h.rest (frame := []) (.inr hbx))

/-- Settles O33, by induction on the arrivals: each FEED's scan leaves the buffer at rest, and `scan_append` puts the later
arrivals behind it. -/
theorem splitIndependence : Obligations.SplitIndependence := by
  intro b arrivals
  induction arrivals generalizing b with
  | nil =>
    intro hrest _
    rw [scanArrivals, List.flatten_nil, List.append_nil, scan_of_stop hrest]
  | cons arrived later ih =>
    intro _ short
    rw [List.flatten_cons, ← List.append_assoc] at short ⊢
    obtain ⟨hfront, hscan⟩ := scan_append (b ++ arrived) short
    rw [scanArrivals, ih _ (scan_atRest _) hfront, hscan]

end Sys2Proof.Machine
end

section
/-! The arithmetic of the cipher (R132 to R134, R142): the product is linear in the byte, the boxes are checked entry by entry
against the affine map, and InvMixColumns undoes MixColumns. -/

namespace Sys2Proof.Machine

theorem gmulBits_xor (bits : Nat) (k : Byte) (a b : Nat) :
    gmulBits bits k (a ^^^ b) = gmulBits bits k a ^^^ gmulBits bits k b := by
  induction bits generalizing k a b with
  | zero => exact BitVec.xor_self.symm
  | succ bits ih =>
    have hbit : (if (a ^^^ b) % 2 = 1 then k else 0x00) =
        (if a % 2 = 1 then k else 0x00) ^^^ (if b % 2 = 1 then k else 0x00) := by
      rw [Nat.xor_mod_two_eq, Nat.add_mod]
      rcases Nat.mod_two_eq_zero_or_one a with ha | ha <;> rcases Nat.mod_two_eq_zero_or_one b with hb | hb <;> simp [ha, hb]
    rw [gmulBits, gmulBits, gmulBits, Nat.xor_div_two, ih, hbit]
    ac_rfl

/-- R132: a product by a coefficient is linear. -/
theorem gmul_xor (k a b : Byte) : gmul k (a ^^^ b) = gmul k a ^^^ gmul k b := by
  rw [gmul, BitVec.toNat_xor, gmulBits_xor, gmul, gmul]

/-- The byte the affine map of R133 takes to `c`. -/
def invAffine (c : Byte) : Byte :=
  c.rotateLeft 1 ^^^ c.rotateLeft 3 ^^^ c.rotateLeft 6 ^^^ 0x05

theorem sboxAffine_invAffine (c : Byte) : sboxAffine (invAffine c) = c := by
  revert c
  decide +kernel

/-- R133: what the affine map takes to an entry of the table is the inverse of the entry's index. -/
theorem gmul_invAffine_sbox (a : Byte) : a ≠ 0x00 → gmul a (invAffine (sbox a)) = 0x01 := by
  revert a
  decide +kernel

/-- R134. -/
theorem invSbox_sbox (a : Byte) : invSbox (sbox a) = a := by
  revert a
  decide +kernel

/-- Settles O36: the inverse of `a` is what the affine map takes to its entry. -/
theorem substitutionBoxes : Obligations.SubstitutionBoxes :=
  ⟨by decide, fun a ha => ⟨invAffine (sbox a), gmul_invAffine_sbox a ha, (sboxAffine_invAffine _).symm⟩, invSbox_sbox⟩

/-- R142: the rows of both column matrices are rotations of one row, so both maps commute with a rotation of the column. -/
theorem mixColumn_rotl (a : Quad) : mixColumn a.rotl = (mixColumn a).rotl := by
  simp only [mixColumn, Quad.rotl, Quad.mk.injEq]
  exact ⟨by ac_rfl, by ac_rfl, by ac_rfl, by ac_rfl⟩

theorem invMixColumn_rotl (a : Quad) : invMixColumn a.rotl = (invMixColumn a).rotl := by
  simp only [invMixColumn, Quad.rotl, Quad.mk.injEq]
  exact ⟨by ac_rfl, by ac_rfl, by ac_rfl, by ac_rfl⟩

/-- R142: both maps are linear in the column. -/
theorem mixColumn_xor (a b : Quad) : mixColumn (a.xor b) = (mixColumn a).xor (mixColumn b) := by
  simp only [mixColumn, Quad.xor, gmul_xor, Quad.mk.injEq]
  exact ⟨by ac_rfl, by ac_rfl, by ac_rfl, by ac_rfl⟩

theorem invMixColumn_xor (a b : Quad) : invMixColumn (a.xor b) = (invMixColumn a).xor (invMixColumn b) := by
  simp only [invMixColumn, Quad.xor, gmul_xor, Quad.mk.injEq]
  exact ⟨by ac_rfl, by ac_rfl, by ac_rfl, by ac_rfl⟩

/-- A column with one byte, at its top. -/
def topColumn (x : Byte) : Quad :=
  ⟨x, 0x00, 0x00, 0x00⟩

/-- Every column is made of top columns by rotation and XOR. -/
theorem eq_xor_rotl_topColumn (a : Quad) :
    a = (topColumn a.b0).xor ((topColumn a.b3).xor ((topColumn a.b2).xor (topColumn a.b1).rotl).rotl).rotl := by
  simp [topColumn, Quad.xor, Quad.rotl]

theorem topColumn_xor (x y : Byte) : topColumn (x ^^^ y) = (topColumn x).xor (topColumn y) := by
  simp [topColumn, Quad.xor]

/-- A byte is its low nibble and its high one. -/
theorem eq_xor_nibbles (x : Byte) : x = (x.setWidth 4).setWidth 8 ^^^ ((x >>> 4).setWidth 4).setWidth 8 <<< 4 := by
  revert x
  decide +kernel

theorem invMixColumn_mixColumn_nibble (n : BitVec 4) :
    invMixColumn (mixColumn (topColumn (n.setWidth 8))) = topColumn (n.setWidth 8) ∧
    invMixColumn (mixColumn (topColumn (n.setWidth 8 <<< 4))) = topColumn (n.setWidth 8 <<< 4) := by
  revert n
  decide +kernel

theorem invMixColumn_mixColumn_topColumn (x : Byte) : invMixColumn (mixColumn (topColumn x)) = topColumn x := by
  obtain ⟨low, -⟩ := invMixColumn_mixColumn_nibble (x.setWidth 4)
  obtain ⟨-, high⟩ := invMixColumn_mixColumn_nibble ((x >>> 4).setWidth 4)
  rw [eq_xor_nibbles x, topColumn_xor, mixColumn_xor, invMixColumn_xor, low, high]

/-- R142: InvMixColumns undoes MixColumns on a column. -/
theorem invMixColumn_mixColumn (a : Quad) : invMixColumn (mixColumn a) = a := by
  rw [eq_xor_rotl_topColumn a]
  simp only [mixColumn_xor, mixColumn_rotl, invMixColumn_xor, invMixColumn_rotl, invMixColumn_mixColumn_topColumn]

end Sys2Proof.Machine
end

section
/-! The block transform (R138 to R144): each step of a round has its inverse, so decryption runs the rounds back. -/

namespace Sys2Proof.Machine

@[simp] theorem addRoundKey_addRoundKey (w : List Quad) (n : Nat) (m : Matrix) : addRoundKey w n (addRoundKey w n m) = m := by
  simp [addRoundKey, Matrix.xor, Quad.xor]

@[simp] theorem invSubBytes_subBytes (m : Matrix) : invSubBytes (subBytes m) = m := by
  simp only [invSubBytes, subBytes, Matrix.map, Quad.map, invSbox_sbox]

@[simp] theorem invShiftRows_shiftRows (m : Matrix) : invShiftRows (shiftRows m) = m := rfl

@[simp] theorem invMixColumns_mixColumns (m : Matrix) : invMixColumns (mixColumns m) = m := by
  calc invMixColumns (mixColumns m)
    _ = m.mapColumns fun a => invMixColumn (mixColumn a) := rfl
    _ = m := by simp only [invMixColumn_mixColumn, Matrix.mapColumns, ofColumns]

/-- R143, R144: a decryption round takes the state of the next round's SubBytes and ShiftRows to this round's. -/
theorem decRound_encRound (w : List Quad) (m : Matrix) (n : Nat) :
    decRound w (shiftRows (subBytes (encRound w m n))) n = shiftRows (subBytes m) := by
  simp only [decRound, encRound, invShiftRows_shiftRows, invSubBytes_subBytes, addRoundKey_addRoundKey,
    invMixColumns_mixColumns]

/-- R144: the decryption rounds, last first, undo the encryption rounds. -/
theorem foldl_decRound_foldl_encRound (w : List Quad) (ns : List Nat) (m : Matrix) :
    ns.reverse.foldl (decRound w) (shiftRows (subBytes (ns.foldl (encRound w) m))) = shiftRows (subBytes m) := by
  induction ns generalizing m with
  | nil => rfl
  | cons n ns ih => simp only [List.reverse_cons, List.foldl_append, List.foldl_cons, List.foldl_nil, ih, decRound_encRound]

/-- R144: the rounds between load and store. -/
theorem decMatrix_encMatrix (w : List Quad) (m : Matrix) : decMatrix w (encMatrix w m) = m := by
  rw [decMatrix, encMatrix, addRoundKey_addRoundKey, foldl_decRound_foldl_encRound, invShiftRows_shiftRows,
    invSubBytes_subBytes, addRoundKey_addRoundKey]

/-- R144: D(w, E(w, x)) = x. -/
theorem decBlock_encBlock (w : List Quad) {x : Bytes} (h : x.length = 16) : decBlock w (encBlock w x) = x := by
  rw [decBlock, encBlock, load_store, decMatrix_encMatrix, store_load h]

/-- Settles O39: the rounds undo each other between a load and a store that do. -/
theorem blockDecryptionUndoesEncryption : Obligations.BlockDecryptionUndoesEncryption :=
  fun w _ h => decBlock_encBlock w h

/-- R138, R150: the column-major load of the transposed block is the row-major load. -/
theorem loadColumns_transposeBlock (x : Bytes) : loadColumns (transposeBlock x) = load x := rfl

/-- R150: the column-major store, transposed, is the row-major store. -/
theorem transposeBlock_storeColumns (m : Matrix) : transposeBlock (storeColumns m) = store m := rfl

/-- Settles O40: the load and the store are each transposed, and nothing else differs. -/
theorem rowMajorIsTransposedFips : Obligations.RowMajorIsTransposedFips := by
  intro w x _
  rw [fipsEncrypt, fipsDecrypt, loadColumns_transposeBlock, transposeBlock_storeColumns, transposeBlock_storeColumns]
  exact ⟨rfl, rfl⟩

end Sys2Proof.Machine
end

section
/-! The key schedule (R131, R135 to R137): each step appends one word, so a word stays where it was written, and KSCHED. -/

namespace Sys2Proof.Machine

/-- R136: the words `w[0..7]`, the key's. -/
def keyWords (k : Bytes) : List Quad :=
  (List.range 8).map fun i => quadAt k (4 * i)

@[simp] theorem keyWords_length (k : Bytes) : (keyWords k).length = 8 := rfl

theorem expand_eq_foldl (k : Bytes) : expand k = (List.range' 8 52).foldl expandStep (keyWords k) := rfl

theorem prefix_foldl_expandStep (is : List Nat) (w : List Quad) : w <+: is.foldl expandStep w := by
  induction is generalizing w with
  | nil => exact List.prefix_rfl
  | cons i is ih => exact (List.prefix_append w _).trans (ih (expandStep w i))

theorem wordAt_of_prefix {u w : List Quad} (h : u <+: w) {i : Nat} (hi : i < u.length) : wordAt w i = wordAt u i := by
  obtain ⟨v, rfl⟩ := h
  exact List.getD_append _ _ _ _ hi

theorem wordAt_expandStep_length (w : List Quad) :
    wordAt (expandStep w w.length) w.length =
      (wordAt w (w.length - 8)).xor (scheduleTerm w.length (wordAt w (w.length - 1))) := by
  simp [wordAt, expandStep]

/-- R136: the first 8 words are the key's. -/
theorem wordAt_expand_of_lt {i : Nat} (hi : i < 8) (k : Bytes) : wordAt (expand k) i = quadAt k (4 * i) := by
  rw [expand_eq_foldl, wordAt_of_prefix (prefix_foldl_expandStep _ _) (by simpa using hi)]
  simp [wordAt, keyWords, hi]

/-- R136: the words before `w[i]`, and then `w[i]`, are written by step i and stay. -/
theorem expand_prefix {i : Nat} (h8 : 8 ≤ i) (h60 : i < 60) (k : Bytes) :
    ∃ u, u.length = i ∧ u <+: expandStep u i ∧ expandStep u i <+: expand k := by
  obtain ⟨n, rfl⟩ := Nat.exists_eq_add_of_le h8
  have cut : List.range' 8 52 = List.range' 8 n ++ (8 + n) :: List.range' (8 + n + 1) (51 - n) := by
    rw [← List.range'_succ, List.range'_append_1]
    congr 1
    omega
  refine ⟨(List.range' 8 n).foldl expandStep (keyWords k), ?_, ?_, ?_⟩
  · rw [foldl_expandStep_length, keyWords_length, List.length_range']
  · exact List.prefix_append _ _
  · rw [expand_eq_foldl, cut, List.foldl_append, List.foldl_cons]
    exact prefix_foldl_expandStep _ _

/-- R136: the recurrence. -/
theorem wordAt_expand {i : Nat} (h8 : 8 ≤ i) (h60 : i < 60) (k : Bytes) :
    wordAt (expand k) i = (wordAt (expand k) (i - 8)).xor (scheduleTerm i (wordAt (expand k) (i - 1))) := by
  obtain ⟨u, rfl, before, written⟩ := expand_prefix h8 h60 k
  rw [wordAt_of_prefix written (by simp [expandStep]), wordAt_expandStep_length,
    wordAt_of_prefix (before.trans written) (by omega), wordAt_of_prefix (before.trans written) (by omega)]

/-- R135: the round constants the expansion reads. -/
theorem rcon_eq_getD {j : Nat} (h : j < 8) : rcon j = [0x00, 0x01, 0x02, 0x04, 0x08, 0x10, 0x20, 0x40].getD j 0x00 := by
  revert j
  decide

/-- R136: the term of the recurrence, written out. -/
theorem scheduleTerm_eq {i : Nat} (h : i < 60) (p : Quad) :
    scheduleTerm i p =
      if i % 8 = 0 then
        ⟨sbox p.b1 ^^^ [0x00, 0x01, 0x02, 0x04, 0x08, 0x10, 0x20, 0x40].getD (i / 8) 0x00, sbox p.b2, sbox p.b3, sbox p.b0⟩
      else if i % 8 = 4 then ⟨sbox p.b0, sbox p.b1, sbox p.b2, sbox p.b3⟩
      else p := by
  rw [scheduleTerm, rcon_eq_getD (by omega)]
  simp only [Quad.rotl, Quad.map, Quad.xor, BitVec.ofNat_eq_ofNat, BitVec.xor_zero]

/-- Settles O37: the words written before a step are the final ones. -/
theorem keyExpansion : Obligations.KeyExpansion := fun k =>
  ⟨expand_length k, fun _ hi => wordAt_expand_of_lt hi k,
    fun i h8 h60 => ⟨_, scheduleTerm i _, rfl, wordAt_expand h8 h60 k, scheduleTerm_eq h60 _⟩⟩

theorem quadAt_drop (x : Bytes) (o : Nat) : quadAt (x.drop o) 0 = quadAt x o := by
  simp [quadAt]

theorem quadAt_bytes {x : Bytes} {o : Nat} (h : o + 4 ≤ x.length) : (quadAt x o).bytes = (x.drop o).take 4 := by
  have h4 : 4 ≤ (x.drop o).length := by
    rw [List.length_drop]
    omega
  rw [← quadAt_drop]
  match x.drop o, h4 with
  | _ :: _ :: _ :: _ :: _, _ => rfl

/-- The words read one after another are the string. -/
theorem flatMap_quadAt_bytes {x : Bytes} {n : Nat} (h : 4 * n ≤ x.length) :
    (List.range n).flatMap (fun i => (quadAt x (4 * i)).bytes) = x.take (4 * n) := by
  induction n with
  | zero => rfl
  | succ n ih =>
    rw [List.range_succ, List.flatMap_append, List.flatMap_singleton, ih (by omega), quadAt_bytes (by omega), Nat.mul_succ,
      List.take_add]

/-- R137: the key material begins with the key. -/
theorem expand_bytes_take {k : Bytes} (h : k.length = 32) : ((expand k).flatMap Quad.bytes).take 32 = k := by
  obtain ⟨later, he⟩ := prefix_foldl_expandStep (List.range' 8 52) (keyWords k)
  have hk : (keyWords k).flatMap Quad.bytes = k := by
    rw [keyWords, List.flatMap_map, flatMap_quadAt_bytes (by omega), List.take_of_length_le (by omega)]
  rw [expand_eq_foldl, ← he, List.flatMap_append, hk, List.take_left' h]

theorem hasKey_iff {p : Bytes} : hasKey p = true ↔ p.length ≤ 32 :=
  decide_eq_true_iff

theorem exec_ksched_eq (p : Bytes) (s : State) :
    exec (.ksched p) s = .next (s.answered
      (if p.length ≤ 32 then responsePacket 0x00 [(keySchedule p).flatMap Quad.bytes] else [0x04])) := by
  show execKsched p s = _
  by_cases hp : p.length ≤ 32
  · rw [if_pos hp, execKsched, hasKey_iff.mpr hp]
    exact reply_eq_answered s .ok _
  · rw [if_neg hp, execKsched, Bool.eq_false_of_not_eq_true (hasKey_iff.not.mpr hp)]
    exact reply_eq_answered s .badOperand _

/-- Settles O38: KSCHED is one reply with the schedule's bytes or with none. -/
theorem kschedResult : Obligations.KschedResult := fun p =>
  ⟨exec_ksched_eq p, decode_code_cons_wireField (i := .ksched p) rfl,
    fun hp => ⟨keySchedule_bytes_length p, expand_bytes_take (formKey_length (hasKey_iff.mpr hp))⟩⟩

/-- R131, R149: trailing pad bytes within the key are the ones the key's padding has. -/
theorem formKey_append_replicate {p : Bytes} {k : Nat} (h : p.length + k ≤ 32) :
    formKey (p ++ List.replicate k 0xEE) = formKey p := by
  rw [formKey, List.append_assoc, List.replicate_append_replicate, formKey, List.length_append, List.length_replicate]
  congr 2
  simp only [keyLen]
  omega

end Sys2Proof.Machine
end

section
/-! Messages (R145 to R149): the blocks of a message are enciphered and deciphered each at its own place, ENC and DEC in every
state, and DEC undoes ENC. -/

namespace Sys2Proof.Machine

/-- R60, R61: the packet of a command with two operands decodes to the command. -/
theorem decode_code_cons_wireField_append {i : Instr} {f g : Bytes} (hops : i.operands = [f, g]) (hf : f.length ≤ 65535)
    (hg : g.length ≤ 65535) : decode (i.opcode.code :: wireField f ++ wireField g) = .ok i := by
  have henc : encode i = i.opcode.code :: wireField f ++ wireField g := by
    rw [encode, hops, List.flatMap_cons, List.flatMap_singleton, lengthPrefixed_eq_wireField, lengthPrefixed_eq_wireField,
      List.cons_append]
  rw [← henc]
  exact decodeEncodeRoundTrip i (Instr.wf_iff.mpr (by simpa [hops] using ⟨hf, hg⟩))

/-- R145: `65535 < len(pad(m))` is a condition on the plaintext's length. -/
theorem maxField_lt_padMessage_length_iff (m : Bytes) : maxField < (padMessage m).length ↔ 65520 < m.length := by
  rw [padMessage_length, pad16, maxField]
  omega

/-- R146, R147: ENC and DEC check the password, then their own condition, and answer one field or BAD_OPERAND. -/
theorem keyedReply_eq_answered {p : Bytes} {c d : Prop} [Decidable c] [Decidable d] (hcd : c ↔ d) (field : Bytes) (s : State) :
    (if !hasKey p then reply s .badOperand [] else if c then reply s .badOperand [] else reply s .ok [field]) =
      .next (s.answered (if 32 < p.length ∨ d then [0x04] else responsePacket 0x00 [field])) := by
  by_cases hp : p.length ≤ 32
  · rw [hasKey_iff.mpr hp, if_neg (by decide)]
    by_cases hd : d
    · rw [if_pos (hcd.mpr hd), if_pos (.inr hd)]
      exact reply_eq_answered s .badOperand _
    · rw [if_neg (hcd.not.mpr hd), if_neg (not_or.mpr ⟨Nat.not_lt.mpr hp, hd⟩)]
      exact reply_eq_answered s .ok _
  · rw [Bool.eq_false_of_not_eq_true (hasKey_iff.not.mpr hp), if_pos (by decide), if_pos (.inl (Nat.lt_of_not_le hp))]
    exact reply_eq_answered s .badOperand _

theorem exec_enc_eq (m p : Bytes) (s : State) :
    exec (.enc m p) s = .next (s.answered
      (if 32 < p.length ∨ 65520 < m.length then [0x04] else responsePacket 0x00 [encrypt m p])) :=
  keyedReply_eq_answered (maxField_lt_padMessage_length_iff m) _ s

theorem exec_dec_eq (c p : Bytes) (s : State) :
    exec (.dec c p) s = .next (s.answered
      (if 32 < p.length ∨ c.length % 16 ≠ 0 then [0x04] else responsePacket 0x00 [decrypt c p])) :=
  keyedReply_eq_answered Iff.rfl _ s

section

variable {f : Bytes → Bytes} (hf : ∀ x, (f x).length = 16)
include hf

/-- R146, R147: what a block transform makes of block i stands at block i's place. -/
theorem flatMap_takeBlocks_block {n i : Nat} (hi : i < n) (m : Bytes) :
    (((takeBlocks n m).flatMap f).drop (16 * i)).take 16 = f ((m.drop (16 * i)).take 16) := by
  induction n generalizing i m with
  | zero => omega
  | succ n ih =>
    rw [takeBlocks, List.flatMap_cons]
    cases i with
    | zero => exact List.take_left' (hf _)
    | succ i =>
      rw [Nat.mul_succ, Nat.add_comm, ← List.drop_drop, List.drop_left' (hf _), ih (by omega), List.drop_drop]

/-- R145: the blocks of transformed blocks are those. -/
theorem takeBlocks_flatMap (xs : List Bytes) : takeBlocks xs.length (xs.flatMap f) = xs.map f := by
  induction xs with
  | nil => rfl
  | cons x xs ih =>
    rw [List.length_cons, takeBlocks, List.flatMap_cons, List.take_left' (hf x), List.drop_left' (hf x), ih, List.map_cons]

theorem flatMap_length_blocks (m : Bytes) : ((blocks m).flatMap f).length = 16 * (m.length / 16) := by
  rw [List.length_flatMap]
  simp [hf, blocks, Nat.mul_comm]

theorem blocks_flatMap (m : Bytes) : blocks ((blocks m).flatMap f) = (blocks m).map f := by
  rw [blocks, flatMap_length_blocks hf, Nat.mul_div_cancel_left _ (by decide)]
  simpa [blocks] using takeBlocks_flatMap hf (blocks m)

end

/-- R146: the padded plaintext is whole blocks. -/
theorem padMessage_length_mod (m : Bytes) : (padMessage m).length % 16 = 0 := by
  rw [padMessage_length, pad16_mod]

/-- Settles O41: ENC is one reply, and each block of the ciphertext is its plaintext block's. -/
theorem encResult : Obligations.EncResult := by
  intro m p
  have hpad : (padMessage m).length = 16 * ((m.length + 15) / 16) := padMessage_length m
  refine ⟨exec_enc_eq m p, (encrypt_length m p).trans hpad, fun i hi => ?_,
    decode_code_cons_wireField_append (i := .enc m p) rfl⟩
  exact flatMap_takeBlocks_block (encBlock_length _) (by rw [hpad, blockLen]; omega) (padMessage m)

/-- Settles O42: DEC is one reply, and each block of the result is its ciphertext block's. -/
theorem decResult : Obligations.DecResult := by
  intro c p
  refine ⟨exec_dec_eq c p, fun whole => ⟨?_, fun i hi => ?_⟩, decode_code_cons_wireField_append (i := .dec c p) rfl⟩
  · rw [decrypt, flatMap_length_blocks (decBlock_length _)]
    omega
  · exact flatMap_takeBlocks_block (decBlock_length _) (by rw [blockLen]; omega) c

/-- R148: `decrypt(encrypt(m, p), p) = pad(m)`. -/
theorem decrypt_encrypt (m p : Bytes) : decrypt (encrypt m p) p = padMessage m := by
  have whole : (padMessage m).length = 16 * ((padMessage m).length / 16) := by
    have := padMessage_length_mod m
    omega
  have undone : ∀ x ∈ blocks (padMessage m), decBlock (keySchedule p) (encBlock (keySchedule p) x) = x :=
    fun x hx => decBlock_encBlock _ (length_of_mem_takeBlocks whole hx)
  calc decrypt (encrypt m p) p
    _ = (blocks (padMessage m)).flatMap fun x => decBlock (keySchedule p) (encBlock (keySchedule p) x) := by
      rw [decrypt, encrypt, blocks_flatMap (encBlock_length _), List.flatMap_map]
    _ = (blocks (padMessage m)).flatten := by rw [List.flatMap_def, List.map_congr_left undone, List.map_id']
    _ = padMessage m := takeBlocks_flatten whole

/-- Settles O43: both commands answer OK, and DEC's result is `decrypt_encrypt`. -/
theorem decUndoesEnc : Obligations.DecUndoesEnc := by
  intro m p s hp hm
  have whole : (encrypt m p).length % 16 = 0 := by rw [encrypt_length, padMessage_length_mod]
  refine ⟨?_, ?_⟩
  · rw [exec_enc_eq, if_neg (by omega)]
  · rw [exec_dec_eq, if_neg (by omega), decrypt_encrypt]
    rfl

/-- Settles O44: the key schedule, the ciphertext and ENC's checks depend on the password through its key. -/
theorem keyAliasing : Obligations.KeyAliasing := by
  intro p k h
  have hkeys : keySchedule (p ++ List.replicate k 0xEE) = keySchedule p := by
    rw [keySchedule, formKey_append_replicate h, keySchedule]
  refine ⟨hkeys, fun m s => ?_⟩
  have hlen : (p ++ List.replicate k (0xEE : Byte)).length ≤ 32 := by simpa using h
  simp only [exec_enc_eq, encrypt, hkeys, Nat.not_lt.mpr hlen, Nat.not_lt.mpr (show p.length ≤ 32 by omega)]

end Sys2Proof.Machine
end

section
/-! IPWRAP and IPUNWRAP (R163, R165): the unwrapping of a wrapped frame. -/

namespace Sys2Proof.Machine

/-- R161: the payload's length on the wire. -/
theorem wrapPayload_length (s : State) (h : WireHeader) (p : Bytes) :
    (wrapPayload s h p).length = wireLength s.cfg p.length h.messageType h.command h.subCommand := by
  rw [wrapPayload, wireLength]
  split
  · rfl
  · rw [encrypt_length, padMessage_length]

/-- R163: the frame IPWRAP builds. -/
def wrapFrame (s : State) (h : WireHeader) (p : Bytes) : Bytes :=
  buildHeader s.cfg p.length h ++ wrapPayload s h p

theorem execIpwrap_eq_wrapFrame {s : State} {h : WireHeader} {p : Bytes} (live : s.hs ≠ .failed)
    (known : knownMessageType s.cfg h.messageType = true) (fits : (wrapFrame s h p).length ≤ 65535) :
    execIpwrap h.bytes p s = reply s .ok [wrapFrame s h p] := by
  rw [wrapFrame, List.length_append, buildHeader_length] at fits
  rw [execIpwrap, if_neg live, headerOperand_eq_some_iff.mpr rfl]
  dsimp only
  rw [known, if_neg (by decide), if_neg (Nat.not_lt.mpr fits)]
  rfl

section
variable {s : State} (hwf : layoutWf s.cfg.layout = true) {p : Bytes} (hp : p.length < 65536) (h : WireHeader) (after : Bytes)
include hwf

theorem parseHeader_wrapFrame : parseHeader s.cfg (wrapFrame s h p ++ after) = h := by
  rw [wrapFrame, List.append_assoc, parseHeader_buildHeader hwf]

include hp

theorem parseLength_wrapFrame : parseLength s.cfg (wrapFrame s h p ++ after) = p.length := by
  rw [wrapFrame, List.append_assoc, parseLength_buildHeader hwf hp]

/-- R165: `P` is the frame's length. -/
theorem frameEnd_wrapFrame : frameEnd s.cfg (wrapFrame s h p ++ after) = (wrapFrame s h p).length := by
  rw [frameEnd, parseHeader_wrapFrame hwf, parseLength_wrapFrame hwf hp, ← wrapPayload_length, wrapFrame, List.length_append,
    buildHeader_length]

/-- R148, R165: the payload is deciphered and cut to its length. -/
theorem framePayload_wrapFrame : framePayload s (wrapFrame s h p ++ after) = p := by
  have body : slice (wrapFrame s h p ++ after) hdrLen (wrapFrame s h p).length = wrapPayload s h p := by
    rw [slice, List.take_left, wrapFrame, List.drop_left' (buildHeader_length _ _ _)]
  simp only [framePayload, frameEnd_wrapFrame hwf hp, parseHeader_wrapFrame hwf, parseLength_wrapFrame hwf hp, body]
  rw [wrapPayload]
  split
  · rfl
  · rw [decrypt_encrypt, padMessage, List.take_left]

theorem wholeFrame_wrapFrame
    (known : h.messageType ∈ [s.cfg.mtIpResponse, s.cfg.mtSerialPtResponse, s.cfg.mtIpRequest, s.cfg.mtSerialPtRequest]) :
    WholeFrame s.cfg (wrapFrame s h p ++ after) where
  header := by
    rw [wrapFrame, List.append_assoc, List.length_append, buildHeader_length]
    exact Nat.le_add_right _ _
  magicByte := by
    rw [wrapFrame, List.append_assoc]
    exact buildHeader_append_getD_of_mem hwf (by simp [headerFields]) _
  whole := by
    rw [frameEnd_wrapFrame hwf hp, List.length_append]
    exact Nat.le_add_right _ _
  known := by rwa [parseHeader_wrapFrame hwf]

end

/-- R165: a whole frame whose connect checks pass and whose segments are found. -/
theorem execIpunwrap_eq_reply_ok {s s' : State} {wire : Bytes} {segs : List Bytes} (live : s.hs ≠ .failed)
    (frame : WholeFrame s.cfg wire) (passes : connectCheck s (parseHeader s.cfg wire) (framePayload s wire) = some s')
    (found : frameSegments s.cfg (parseHeader s.cfg wire) (framePayload s wire) = some segs) :
    execIpunwrap wire s = reply s' .ok (unwrapFields s wire ++ segs) := by
  obtain ⟨h16, hmagic, hwhole, hknown⟩ := frame
  have known : knownMessageType s.cfg (parseHeader s.cfg wire).messageType = true := List.contains_iff_mem.mpr hknown
  rw [execIpunwrap, if_neg live, if_neg (Nat.not_lt.mpr h16), if_neg (not_not_intro hmagic), if_neg (Nat.not_lt.mpr hwhole),
    known, if_neg (by decide), passes, found]
  rfl

/-- R173: a frame with no meaning of its own passes the connect checks and has no segments. -/
theorem connectCheck_of_command_ne {s : State} {h : WireHeader} (hc : h.command ≠ s.cfg.cmdConnect) (pl : Bytes) :
    connectCheck s h pl = some s :=
  if_pos hc

theorem frameSegments_of_command_ne {cfg : Config} {h : WireHeader} (hc : h.command ≠ cfg.cmdMulticommand) (pl : Bytes) :
    frameSegments cfg h pl = some [] :=
  if_neg hc

theorem le16_eq (n : Nat) : le16 n = [BitVec.ofNat 8 n, BitVec.ofNat 8 (n / 256)] := by
  rw [le16, lowByte_shiftRight_eight, lowByte]

/-- R163: the longest payloads that fit a frame, in the clear and enciphered. -/
theorem wrapFrame_length_le {s : State} {h : WireHeader} {p : Bytes}
    (hp : p.length ≤ if clearPayload s.cfg h.messageType h.command h.subCommand = true then 65519 else 65504) :
    (wrapFrame s h p).length ≤ 65535 := by
  rw [wrapFrame, List.length_append, buildHeader_length, wrapPayload_length, wireLength, pad16]
  split at hp
  · next clear =>
    rw [if_pos clear]
    omega
  · next secret =>
    rw [if_neg secret]
    omega

/-- Settles O57: the frame is whole whatever follows it, and its extent, header and payload are what IPWRAP was given. -/
theorem ipunwrapUndoesIpwrap : Obligations.IpunwrapUndoesIpwrap := by
  intro s h p hc live known notConnect notMulti hp
  obtain ⟨-, -, -, hwf⟩ := configWf_iff.mp hc
  have hp16 : p.length < 65536 := by
    split at hp <;> omega
  refine ⟨wrapFrame s h p, ?_, fun after => ?_⟩
  · exact (execIpwrap_eq_wrapFrame live (List.contains_iff_mem.mpr known) (wrapFrame_length_le hp)).trans
      (reply_eq_answered s .ok _)
  · have hparse := parseHeader_wrapFrame hwf (p := p) h after
    have passes : connectCheck s (parseHeader s.cfg (wrapFrame s h p ++ after)) (framePayload s (wrapFrame s h p ++ after)) =
        some s := connectCheck_of_command_ne (by rwa [hparse]) _
    have found : frameSegments s.cfg (parseHeader s.cfg (wrapFrame s h p ++ after))
        (framePayload s (wrapFrame s h p ++ after)) = some [] := frameSegments_of_command_ne (by rwa [hparse]) _
    have fields : unwrapFields s (wrapFrame s h p ++ after) = [le16 (wrapFrame s h p).length, h.bytes, p] := by
      rw [unwrapFields, frameEnd_wrapFrame hwf hp16, hparse, framePayload_wrapFrame hwf hp16]
    calc exec (.ipunwrap (wrapFrame s h p ++ after)) s
      _ = reply s .ok (unwrapFields s (wrapFrame s h p ++ after) ++ []) :=
        execIpunwrap_eq_reply_ok live (wholeFrame_wrapFrame hwf hp16 h after known) passes found
      _ = _ := by
        rw [List.append_nil, fields, le16_eq]
        exact reply_eq_answered s .ok _

end Sys2Proof.Machine
end

section
/-! IPWRAP and HSCONN in every state (R163, R164), and the extent and payload of a frame (R161, R165). -/

namespace Sys2Proof.Machine

/-- R163: a frame past 65535 bytes is a condition on the payload's length. -/
theorem maxField_lt_wrapPayload_iff (s : State) (h : WireHeader) (p : Bytes) :
    maxField < hdrLen + (wrapPayload s h p).length ↔
      (if clearPayload s.cfg h.messageType h.command h.subCommand = true then 65519 else 65504) < p.length := by
  rw [wrapPayload_length, wireLength, pad16, maxField, hdrLen]
  split <;> omega

theorem exec_ipwrap_of_failed {s : State} (failed : s.hs = .failed) (hdr p : Bytes) :
    exec (.ipwrap hdr p) s = .next (s.answered [0x06]) :=
  (if_pos failed).trans (reply_eq_answered s .sessionFailed [])

section
variable {s : State} (live : s.hs ≠ .failed)
include live

/-- R65: a header operand that is not four bytes. -/
theorem exec_ipwrap_of_noHeader {hdr : Bytes} (noHeader : headerOperand hdr = none) (p : Bytes) :
    exec (.ipwrap hdr p) s = .next (s.answered [0x04]) := by
  show execIpwrap hdr p s = _
  rw [execIpwrap, if_neg live, noHeader]
  exact reply_eq_answered s .badOperand []

theorem exec_ipwrap_of_unknown {h : WireHeader} (unknown : h.messageType ∉ messageTypes s.cfg) (p : Bytes) :
    exec (.ipwrap h.bytes p) s = .next (s.answered [0x04]) := by
  have hunknown : knownMessageType s.cfg h.messageType = false :=
    Bool.eq_false_of_not_eq_true (List.contains_iff_mem.not.mpr unknown)
  show execIpwrap h.bytes p s = _
  rw [execIpwrap, if_neg live, headerOperand_eq_some_iff.mpr rfl]
  dsimp only
  rw [hunknown, if_pos (by decide)]
  exact reply_eq_answered s .badOperand []

/-- R163: a known frame is answered unless its payload is past the longest that fits. -/
theorem exec_ipwrap_of_known {h : WireHeader} (known : h.messageType ∈ messageTypes s.cfg) (p : Bytes) :
    exec (.ipwrap h.bytes p) s = .next (s.answered
      (if (if clearPayload s.cfg h.messageType h.command h.subCommand = true then 65519 else 65504) < p.length then [0x04]
      else responsePacket 0x00 [wrapFrame s h p])) := by
  have hknown : knownMessageType s.cfg h.messageType = true := List.contains_iff_mem.mpr known
  have hlong := maxField_lt_wrapPayload_iff s h p
  show execIpwrap h.bytes p s = _
  rw [execIpwrap, if_neg live, headerOperand_eq_some_iff.mpr rfl]
  dsimp only
  rw [hknown, if_neg (by decide)]
  split
  · next long =>
    rw [if_pos (hlong.mp long)]
    exact reply_eq_answered s .badOperand []
  · next fits =>
    rw [if_neg (hlong.not.mp fits)]
    exact reply_eq_answered s .ok _

end

/-- Settles O46: the checks in the rule's order; the default layout's header is `buildHeader_of_defaultLayout`. -/
theorem ipwrapResult : Obligations.IpwrapResult := by
  refine fun hdr p => ⟨fun s => ?_, fun cfg mt fl cmd sub hl => buildHeader_of_defaultLayout hl _ _,
    decode_code_cons_wireField_append (i := .ipwrap hdr p) rfl⟩
  split
  · next failed => exact exec_ipwrap_of_failed failed hdr p
  next live =>
  split
  · next mt fl cmd sub =>
    split
    · next unknown => exact exec_ipwrap_of_unknown (h := ⟨mt, fl, cmd, sub⟩) live unknown p
    next known =>
    have wrapped := exec_ipwrap_of_known (h := ⟨mt, fl, cmd, sub⟩) live (not_not.mp known) p
    rw [wrapFrame, wrapPayload] at wrapped
    split
    · next clear => simpa only [if_pos clear, WireHeader.bytes] using wrapped
    · next secret => simpa only [if_neg secret, WireHeader.bytes] using wrapped
  · next notFour =>
    have noHeader : headerOperand hdr = none :=
      Option.eq_none_iff_forall_not_mem.mpr fun h hh => notFour _ _ _ _ (headerOperand_eq_some_iff.mp hh)
    exact exec_ipwrap_of_noHeader live noHeader p

theorem exec_hsconn_of_failed {s : State} (failed : s.hs = .failed) : exec .hsconn s = .next (s.answered [0x06]) :=
  (if_pos failed).trans (reply_eq_answered s .sessionFailed [])

/-- R164: HSCONN in Disconnected. -/
theorem exec_hsconn_eq {s : State} (idle : s.hs = .disconnected) :
    exec .hsconn s = .next ((s.setHs .awaitingConnectAck).answered (responsePacket 0x00
      [buildHeader s.cfg s.sec.length (connectHeader s.cfg) ++ s.sec])) := by
  have live : s.hs ≠ .failed := by
    rw [idle]
    decide
  exact (if_neg live).trans ((if_neg (not_not_intro idle)).trans (reply_eq_answered _ .ok _))

/-- Settles O47: the three handshake states the rule tells apart. -/
theorem hsconnResult : Obligations.HsconnResult := by
  refine ⟨rfl, fun s => ⟨?_, fun hl => buildHeader_of_defaultLayout hl _ _⟩⟩
  split
  · next failed => exact exec_hsconn_of_failed failed
  next live =>
  split
  · next busy => exact (if_neg live).trans ((if_pos busy).trans (reply_eq_answered s .stateError []))
  · next idle => exact exec_hsconn_eq (not_not.mp idle)

/-- Settles O48: the wire payload is the slice from 16 to the frame's end. -/
theorem frameExtentAndPayload : Obligations.FrameExtentAndPayload := by
  rintro s wire h n rfl rfl
  have body (m : Nat) : slice wire hdrLen (hdrLen + m) = (wire.drop 16).take m := by
    rw [slice_eq_take_drop, Nat.add_sub_cancel_left]
  split
  · next clear => simp only [framePayload, frameEnd, wireLength, if_pos clear, body, and_self]
  · next secret => simp only [framePayload, frameEnd, wireLength, if_neg secret, body, pad16, and_self]

end Sys2Proof.Machine
end

section
/-! MSPLIT (R170, R171): a payload splits exactly when it is a sequence of segments. -/

namespace Sys2Proof.Machine

/-- R170: the segments found are the payload. -/
theorem joinSegments_of_splitLoop {fuel : Nat} {p : Bytes} {segs : List Bytes} (h : splitLoop fuel p = some segs) :
    joinSegments segs = p := by
  fun_induction splitLoop fuel p generalizing segs with
  | case1 => cases h; rfl
  | case2 => cases h
  | case3 => cases h
  | case4 fuel len rest fits ih =>
    obtain ⟨later, hlater, rfl⟩ := Option.map_eq_some_iff.mp h
    have hlen : lowByte (rest.take len.toNat).length = len := by
      rw [List.length_take_of_le (Nat.not_lt.mp fits), lowByte, BitVec.ofNat_toNat, BitVec.setWidth_eq]
    rw [joinSegments_cons, hlen, ih hlater, List.take_append_drop]

/-- R170: every payload that is no sequence of segments overruns. -/
theorem split_eq_none {p : Bytes} (h : ∀ segs : List Bytes, (∀ g ∈ segs, g.length ≤ 255) → p ≠ joinSegments segs) :
    split p = none :=
  Option.eq_none_iff_forall_not_mem.mpr fun segs hsegs =>
    h segs (fun _ hg => length_le_of_mem_split hsegs hg) (joinSegments_of_splitLoop hsegs).symm

theorem exec_msplit_of_some {p : Bytes} {segs : List Bytes} (h : split p = some segs) (s : State) :
    exec (.msplit p) s = .next (s.answered (responsePacket 0x00 segs)) := by
  show execMsplit p s = _
  rw [execMsplit, h]
  exact reply_eq_answered s .ok segs

theorem exec_msplit_of_none {p : Bytes} (h : split p = none) (s : State) :
    exec (.msplit p) s = .next (s.answered [0x03]) := by
  show execMsplit p s = _
  rw [execMsplit, h]
  exact reply_eq_answered s .decodeError []

/-- Settles O55: joined segments split back, and what splits is joined segments. -/
theorem msplitResult : Obligations.MsplitResult :=
  ⟨fun _ s fit => exec_msplit_of_some (split_joinSegments fit) s, fun _ s none => exec_msplit_of_none (split_eq_none none) s,
    fun payload => decode_code_cons_wireField (i := .msplit payload) rfl⟩

end Sys2Proof.Machine
end

section
/-! IPUNWRAP in every state (R165 to R174): what answers bytes that are no whole frame, and for a whole frame the connect
checks of its kind and its segments. -/

namespace Sys2Proof.Machine

theorem exec_ipunwrap_of_failed {s : State} (failed : s.hs = .failed) (wire : Bytes) :
    exec (.ipunwrap wire) s = .next (s.answered [0x06]) :=
  (if_pos failed).trans (reply_eq_answered s .sessionFailed [])

/-- Settles O49: a check before the connect checks fails, or the bytes are a whole frame. -/
theorem ipunwrapRejectsNonFrames : Obligations.IpunwrapRejectsNonFrames := by
  refine ⟨fun wire s live noFrame => ?_, fun wire => decode_code_cons_wireField (i := .ipunwrap wire) rfl⟩
  show execIpunwrap wire s = _
  rw [execIpunwrap, if_neg live]
  split
  · exact reply_eq_answered s .incomplete []
  next h16 =>
  split
  · exact reply_eq_answered s .decodeError _
  next hmagic =>
  split
  · exact reply_eq_answered s .incomplete []
  next hwhole =>
  split
  · exact reply_eq_answered s .decodeError _
  next hknown => exact absurd (wholeFrame_of_checks h16 hmagic hwhole hknown) noFrame

/-- R165: what IPUNWRAP does with a whole frame: the connect checks, then the segments. -/
def unwrapWhole (wire : Bytes) (s : State) : Host.Outcome State Fault Refusal :=
  match connectCheck s (parseHeader s.cfg wire) (framePayload s wire) with
  | none => reply s.failSession .authError [le16 (frameEnd s.cfg wire)]
  | some s' =>
    match frameSegments s.cfg (parseHeader s.cfg wire) (framePayload s wire) with
    | none => reply s' .decodeError [le16 (frameEnd s.cfg wire)]
    | some segs => reply s' .ok (unwrapFields s wire ++ segs)

section
variable {s s' : State} {wire : Bytes} (live : s.hs ≠ .failed) (frame : WholeFrame s.cfg wire)
include live frame

theorem exec_ipunwrap_of_wholeFrame : exec (.ipunwrap wire) s = unwrapWhole wire s := by
  obtain ⟨h16, hmagic, hwhole, hknown⟩ := frame
  have known : knownMessageType s.cfg (parseHeader s.cfg wire).messageType = true := List.contains_iff_mem.mpr hknown
  show execIpunwrap wire s = _
  rw [execIpunwrap, if_neg live, if_neg (Nat.not_lt.mpr h16), if_neg (not_not_intro hmagic), if_neg (Nat.not_lt.mpr hwhole),
    known, if_neg (by decide)]
  rfl

theorem exec_ipunwrap_of_check_none (fails : connectCheck s (parseHeader s.cfg wire) (framePayload s wire) = none) :
    exec (.ipunwrap wire) s = .next (s.failSession.answered (responsePacket 0x02 [le16 (frameEnd s.cfg wire)])) := by
  rw [exec_ipunwrap_of_wholeFrame live frame, unwrapWhole, fails]
  exact reply_eq_answered _ .authError _

section
variable (passes : connectCheck s (parseHeader s.cfg wire) (framePayload s wire) = some s')
include passes

theorem exec_ipunwrap_of_segments_none
    (overrun : frameSegments s.cfg (parseHeader s.cfg wire) (framePayload s wire) = none) :
    exec (.ipunwrap wire) s = .next (s'.answered (responsePacket 0x03 [le16 (frameEnd s.cfg wire)])) := by
  rw [exec_ipunwrap_of_wholeFrame live frame, unwrapWhole, passes, overrun]
  exact reply_eq_answered _ .decodeError _

theorem exec_ipunwrap_of_segments_some {segs : List Bytes}
    (found : frameSegments s.cfg (parseHeader s.cfg wire) (framePayload s wire) = some segs) :
    exec (.ipunwrap wire) s = .next (s'.answered (responsePacket 0x00 (unwrapFields s wire ++ segs))) :=
  (execIpunwrap_eq_reply_ok live frame passes found).trans (reply_eq_answered _ .ok _)

/-- R165: a frame that is no multicommand and passes the connect checks is returned. -/
theorem exec_ipunwrap_of_check_some (notMulti : (parseHeader s.cfg wire).command ≠ s.cfg.cmdMulticommand) :
    exec (.ipunwrap wire) s = .next (s'.answered (responsePacket 0x00 (unwrapFields s wire))) := by
  have returned := exec_ipunwrap_of_segments_some live frame passes (frameSegments_of_command_ne notMulti _)
  rwa [List.append_nil] at returned

end
end

/-- R232: the codes differ, so a response is no password request. -/
theorem not_isRequest_of_response {cfg : Config} (hc : configWf cfg = true) {h : WireHeader}
    (hmt : h.messageType = cfg.mtIpResponse) : ¬(h.messageType = cfg.mtIpRequest ∧ h.subCommand = 0x00) := by
  obtain ⟨-, types, -, -⟩ := configWf_iff.mp hc
  obtain ⟨notLater, -⟩ := List.nodup_cons.mp types
  exact fun request => notLater (by simp [← hmt, request.1])

theorem cmdConnect_ne_cmdMulticommand {cfg : Config} (hc : configWf cfg = true) : cfg.cmdConnect ≠ cfg.cmdMulticommand := by
  obtain ⟨-, -, commands, -⟩ := configWf_iff.mp hc
  exact commands

/-- R168: the check of a key response. -/
theorem connectCheck_of_keyResponse {s : State} {h : WireHeader} (hc : configWf s.cfg = true) (key : IsKeyResponse s.cfg h)
    (pl : Bytes) :
    connectCheck s h pl =
      if pl.length < 17 then none
      else if s.hs = .awaitingConnectAck then some (s.installKey ((pl.drop 1).take 16))
      else some s := by
  obtain ⟨hmt, hcmd, hsub⟩ := key
  have notRequest := not_isRequest_of_response hc hmt
  rw [connectCheck, if_neg (not_not_intro hcmd), if_neg notRequest, if_neg (fun hf => hsub hf.2), if_pos hmt]
  simp only [ne_eq, keySlice_length_iff, Nat.not_le]
  rw [keySlice_eq]

/-- R167: the check of a flag response. -/
theorem connectCheck_of_flagResponse {s : State} {h : WireHeader} (hc : configWf s.cfg = true) (flag : IsFlagResponse s.cfg h)
    (pl : Bytes) : connectCheck s h pl = if pl = [] ∨ (pl.getD 0 0x00).toNat / 16 ≠ 1 then none else some s := by
  obtain ⟨hmt, hcmd, hsub⟩ := flag
  have notRequest := not_isRequest_of_response hc hmt
  rw [connectCheck, if_neg (not_not_intro hcmd), if_neg notRequest, if_pos ⟨hmt, hsub⟩, ← ite_not]
  simp only [authMask_eq_iff, not_and_or, not_not, ne_eq]

/-- R166: the check of a password request. -/
theorem connectCheck_of_passwordRequest {s : State} {h : WireHeader} (request : IsPasswordRequest s.cfg h) (pl : Bytes) :
    connectCheck s h pl = if pl ≠ s.sec then none else some s := by
  obtain ⟨hmt, hcmd, hsub⟩ := request
  rw [connectCheck, if_neg (not_not_intro hcmd), if_pos ⟨hmt, hsub⟩, ite_not]

/-- R162: no check concerns the other connect frames. -/
theorem connectCheck_of_unchecked {s : State} {h : WireHeader}
    (unchecked : h.command = s.cfg.cmdConnect →
      h.messageType ≠ s.cfg.mtIpResponse ∧ (h.messageType = s.cfg.mtIpRequest → h.subCommand ≠ 0x00)) (pl : Bytes) :
    connectCheck s h pl = some s := by
  by_cases hcmd : h.command = s.cfg.cmdConnect
  · obtain ⟨notResponse, notRequest⟩ := unchecked hcmd
    rw [connectCheck, if_neg (not_not_intro hcmd), if_neg (fun hr => notRequest hr.1 hr.2), if_neg (fun hf => notResponse hf.1),
      if_neg notResponse]
  · exact connectCheck_of_command_ne hcmd pl

/-- Settles O50: the three outcomes of the check of a key response. -/
theorem keyResponse : Obligations.KeyResponse := by
  intro wire s hc live frame hmt hcmd hsub
  have check := connectCheck_of_keyResponse hc ⟨hmt, hcmd, hsub⟩ (framePayload s wire)
  have notMulti := hcmd ▸ cmdConnect_ne_cmdMulticommand hc
  split
  · next short => exact exec_ipunwrap_of_check_none live frame (check.trans (if_pos short))
  next long =>
  rw [if_neg long] at check
  split
  · next awaiting => exact exec_ipunwrap_of_check_some live frame (check.trans (if_pos awaiting)) notMulti
  · next elsewhere => exact exec_ipunwrap_of_check_some live frame (check.trans (if_neg elsewhere)) notMulti

/-- Settles O51: the two outcomes of the check of a flag response. -/
theorem flagResponse : Obligations.FlagResponse := by
  intro wire s hc live frame hmt hcmd hsub
  have check := connectCheck_of_flagResponse hc ⟨hmt, hcmd, hsub⟩ (framePayload s wire)
  split
  · next fails => exact exec_ipunwrap_of_check_none live frame (check.trans (if_pos fails))
  · next passes =>
    exact exec_ipunwrap_of_check_some live frame (check.trans (if_neg passes)) (hcmd ▸ cmdConnect_ne_cmdMulticommand hc)

/-- Settles O52: the two outcomes of the check of a password request. -/
theorem passwordRequest : Obligations.PasswordRequest := by
  intro wire s hc live frame hmt hcmd hsub
  have check := connectCheck_of_passwordRequest ⟨hmt, hcmd, hsub⟩ (framePayload s wire)
  split
  · next fails => exact exec_ipunwrap_of_check_none live frame (check.trans (if_pos fails))
  · next passes =>
    exact exec_ipunwrap_of_check_some live frame (check.trans (if_neg passes)) (hcmd ▸ cmdConnect_ne_cmdMulticommand hc)

/-- Settles O53: no check and no segments. -/
theorem otherFramesReturned : Obligations.OtherFramesReturned := fun _ _ live frame notMulti unchecked =>
  exec_ipunwrap_of_check_some live frame (connectCheck_of_unchecked unchecked _) notMulti

/-- Settles O54: a multicommand is no connect frame, and its segments are MSPLIT's. -/
theorem multicommandFrame : Obligations.MulticommandFrame := by
  intro wire s hc live frame hcmd
  have passes : connectCheck s (parseHeader s.cfg wire) (framePayload s wire) = some s :=
    connectCheck_of_command_ne (hcmd ▸ (cmdConnect_ne_cmdMulticommand hc).symm) _
  have segments : frameSegments s.cfg (parseHeader s.cfg wire) (framePayload s wire) = split (framePayload s wire) :=
    if_pos hcmd
  constructor
  · intro segs fit joined
    exact exec_ipunwrap_of_segments_some live frame passes (by rw [segments, joined, split_joinSegments fit])
  · intro overrun
    exact exec_ipunwrap_of_segments_none live frame passes (by rw [segments, split_eq_none overrun])

end Sys2Proof.Machine
end

section
/-! The handshake (R162) and its terminal state (R174, R207). -/

namespace Sys2Proof.Machine

/-- R162, R203: a frame that fails the session. -/
theorem exec_ipunwrap_of_failsSession {s : State} {wire : Bytes} (hc : configWf s.cfg = true) (live : s.hs ≠ .failed)
    (frame : WholeFrame s.cfg wire) (fails : FailsSession s.cfg s.sec (parseHeader s.cfg wire) (framePayload s wire)) :
    exec (.ipunwrap wire) s = .next (s.failSession.answered (responsePacket 0x02 [le16 (frameEnd s.cfg wire)])) := by
  refine exec_ipunwrap_of_check_none live frame ?_
  rcases fails with ⟨key, short⟩ | ⟨flag, unset⟩ | ⟨request, wrong⟩
  · rw [connectCheck_of_keyResponse hc key, if_pos short]
  · rw [connectCheck_of_flagResponse hc flag, if_pos unset]
  · rw [connectCheck_of_passwordRequest request, if_pos wrong]

/-- R162, R168: a key response that installs the key. -/
theorem exec_ipunwrap_of_installs {s : State} {wire : Bytes} (hc : configWf s.cfg = true)
    (awaiting : s.hs = .awaitingConnectAck) (frame : WholeFrame s.cfg wire) (key : IsKeyResponse s.cfg (parseHeader s.cfg wire))
    (long : 17 ≤ (framePayload s wire).length) :
    exec (.ipunwrap wire) s = .next ((s.installKey (((framePayload s wire).drop 1).take 16)).answered
      (responsePacket 0x00 (unwrapFields s wire))) := by
  obtain ⟨hmt, hcmd, hsub⟩ := key
  rw [keyResponse wire s hc (by rw [awaiting]; decide) frame hmt hcmd hsub, if_neg (Nat.not_lt.mpr long), if_pos awaiting]
  rfl

/-- Settles O18: reset and four of the writes a command can make name the handshake state; the command's own equation gives each
its status. -/
theorem handshakeTransitions : Obligations.HandshakeTransitions := by
  intro s t h hne
  have hc := configWf_of_step_next h
  rcases step_next_cases h with ⟨-, rfl⟩ | ⟨rest, hp, rfl⟩ | ⟨_, rest, e, -, -, rfl⟩ |
    ⟨packet, rest, i, w, response, hp, hd, hw, ht⟩
  · exact absurd rfl hne
  · exact .inl ⟨rest, hp, rfl⟩
  · exact absurd rfl hne
  rw [step_of_port_command hc hp, runPacket_of_decode_ok hd] at h
  refine .inr ⟨packet, rest, i, hp, hd, ?_⟩
  cases hw with
  | keep | feed | flush => exact absurd (congrArg State.hs ht) hne
  | hsconn idle => exact .inl ⟨rfl, idle, _, Host.Outcome.next.inj (h.symm.trans (exec_hsconn_eq idle))⟩
  | install awaiting frame key long =>
    have answer := exec_ipunwrap_of_installs (s := s.setPort rest) hc awaiting frame key long
    exact .inr (.inl ⟨_, _, rfl, awaiting, frame, key, long, Host.Outcome.next.inj (h.symm.trans answer)⟩)
  | fail live frame fails =>
    have answer := exec_ipunwrap_of_failsSession (s := s.setPort rest) hc live frame fails
    exact .inr (.inr (.inl ⟨_, _, rfl, live, frame, fails, Host.Outcome.next.inj (h.symm.trans answer)⟩))
  | disc => exact .inr (.inr (.inr ⟨rfl, Host.Outcome.next.inj (h.symm.trans (exec_disc_eq _))⟩))

/-- A write puts in place of an element what does not depend on the handshake state. -/
theorem Write.apply_setHs (w : Write) (s : State) (h : HandshakeState) :
    (w.apply (s.setHs h)).buf = (w.apply s).buf ∧ (w.apply (s.setHs h)).sec = (w.apply s).sec := by
  cases w <;> exact ⟨rfl, rfl⟩

/-- R174: of the commands but the session's, STAT alone reads the handshake state. -/
theorem exec_sameAnswer_setHs {i : Instr} (notSession : showsSecret i = false) (notStat : i ≠ .stat) (s : State)
    (h : HandshakeState) : SameAnswer s (s.setHs h) (exec i s) (exec i (s.setHs h)) := by
  cases i with
  | nop | ckv _ | ckg _ | ksched _ | enc _ _ | dec _ _ | msplit _ => exact (exec_constantReply rfl).sameAnswer _ _
  | feed arrived => exact execFeed_sameAnswer (s := s) (t := s.setHs h) rfl rfl arrived
  | flush => exact .reply (.setBuf []) _ _
  | disc => exact .reply .disconnect _ _
  | stat => exact absurd rfl notStat
  | ipwrap _ _ | ipunwrap _ | hsconn => cases notSession

/-- R174: a command that is none of the session's, in another handshake state. -/
theorem exec_setHs {i : Instr} {s t : State} (notSession : showsSecret i = false) (he : exec i s = .next t)
    (h : HandshakeState) :
    ∃ u, exec i (s.setHs h) = .next u ∧ u.buf = t.buf ∧ u.sec = t.sec ∧ (i ≠ .stat → u.responses = t.responses) := by
  by_cases stat : i = .stat
  · subst stat
    cases he
    exact ⟨_, rfl, rfl, rfl, fun notStat => absurd rfl notStat⟩
  · obtain ⟨w, packet, rfl, hu⟩ := (exec_sameAnswer_setHs notSession stat s h).next he
    obtain ⟨hbuf, hsec⟩ := w.apply_setHs s h
    exact ⟨_, hu, hbuf, hsec, fun _ => by simp⟩

/-- R162: the session commands and DISC alone write the handshake state. -/
theorem hs_eq_of_exec_next {i : Instr} {s t : State} (notSession : showsSecret i = false) (notDisc : i ≠ .disc)
    (he : exec i s = .next t) : t.hs = s.hs := by
  obtain ⟨w, packet, hw, rfl⟩ := exec_next_writes he
  cases hw with
  | keep | feed | flush => rfl
  | disc => exact absurd rfl notDisc
  | hsconn | fail | install => cases notSession

/-- Settles O56: the session commands check for Failed first, only STAT of the others reads the handshake state, and of the
rows of R162 reset's and DISC's alone leave Failed. -/
theorem failedIsTerminal : Obligations.FailedIsTerminal := by
  refine ⟨fun s hdr payload wire failed => ?_, fun i s t h failed he notWrap notUnwrap notConnect => ?_,
    fun s t h failed hne => ?_⟩
  · exact ⟨exec_ipwrap_of_failed failed hdr payload, exec_ipunwrap_of_failed failed wire, exec_hsconn_of_failed failed⟩
  · have notSession := showsSecret_eq_false notWrap notUnwrap notConnect
    obtain ⟨u, hu, hbuf, hsec, hresponses⟩ := exec_setHs notSession he h
    exact ⟨u, hu, hbuf, hsec, hresponses, fun notDisc =>
      ⟨(hs_eq_of_exec_next notSession notDisc he).trans failed, hs_eq_of_exec_next notSession notDisc hu⟩⟩
  · rcases handshakeTransitions s t h (fun same => hne (same.trans failed)) with ⟨rest, hp, -⟩ |
      ⟨packet, rest, i, hp, hd, ⟨-, idle, -⟩ | ⟨_, _, -, awaiting, -⟩ | ⟨_, _, -, live, -⟩ | ⟨rfl, -⟩⟩
    · exact ⟨rest, .inr hp⟩
    · rw [failed] at idle
      cases idle
    · rw [failed] at awaiting
      cases awaiting
    · exact absurd failed live
    · obtain rfl := eq_of_decode_disc hd
      exact ⟨rest, .inl hp⟩

end Sys2Proof.Machine
end

section
/-! DISC (R192) and the reset input (R230): both are the one reset operation of R231. -/

namespace Sys2Proof.Machine

/-- R231: what the reset operation leaves is, of the block, the reset state of the same configuration. -/
theorem sameBlock_resetWith_disconnect (s : State) : SameBlock (State.resetWith s.cfg) s.disconnect := by
  rw [disconnect_eq_reset]
  exact ⟨rfl, rfl, rfl, rfl⟩

/-- Settles O23: DISC is one reply from the state the reset operation leaves, and the reset input's step is that operation. -/
theorem discResult : Obligations.DiscResult := by
  refine ⟨rfl, fun s => ⟨exec_disc_eq s, sameBlock_resetWith_disconnect s, fun rest t hc hp h => ?_⟩⟩
  rw [step_of_port_resetInput hc hp, Host.Outcome.next.injEq] at h
  subst h
  exact sameBlock_resetWith_disconnect (s.setPort rest)

end Sys2Proof.Machine
end

section
/-! What a status says of the write (R200, R203): every command answers OK after its write, AUTH_ERROR after failing the session,
or another status after no write; only a FEED past a finite BUF_CAP does not answer (R121). -/

namespace Sys2Proof.Machine

@[simp] theorem Write.apply_port (w : Write) (s : State) : (w.apply s).port = s.port := by
  cases w <;> rfl

/-- One reply from `s`, its write no other than its status allows. -/
inductive PreciseAnswer (s : State) : Host.Outcome State Fault Refusal → Prop
  | ok (w : Write) (fields : List Bytes) : PreciseAnswer s (reply (w.apply s) .ok fields)
  | authError (fields : List Bytes) : PreciseAnswer s (reply s.failSession .authError fields)
  | noWrite {st : Status} (notAuth : st ≠ .authError) (fields : List Bytes) : PreciseAnswer s (reply s st fields)

theorem PreciseAnswer.ite {s : State} {c : Prop} [Decidable c] {a b : Host.Outcome State Fault Refusal}
    (ha : PreciseAnswer s a) (hb : PreciseAnswer s b) : PreciseAnswer s (if c then a else b) := by
  split
  · exact ha
  · exact hb

/-- It is one next state, one response, and the rest of the port as it was. -/
theorem PreciseAnswer.exists_next {s : State} {o : Host.Outcome State Fault Refusal} (h : PreciseAnswer s o) :
    ∃ t response, o = .next t ∧ t.responses = s.responses ++ [response] ∧ t.port = s.port := by
  cases h with
  | ok w fields =>
    exact ⟨_, responsePacket Status.ok.code fields, reply_eq_answered _ _ _, by simp, by simp⟩
  | authError fields => exact ⟨_, _, reply_eq_answered _ _ _, rfl, rfl⟩
  | noWrite notAuth fields => exact ⟨_, _, reply_eq_answered _ _ _, rfl, rfl⟩

/-- The status in the response decides the next state, OK's apart. -/
theorem PreciseAnswer.next_eq {s t : State} (h : PreciseAnswer s (.next t)) :
    ∃ (st : Status) (fields : List Bytes), t.responses = s.responses ++ [responsePacket st.code fields] ∧
      (st = .authError → t = s.failSession.answered (responsePacket 0x02 fields)) ∧
      (st ≠ .ok → st ≠ .authError → t = s.answered (responsePacket st.code fields)) := by
  generalize ho : Host.Outcome.next t = o at h
  cases h with
  | ok w fields =>
    obtain rfl := Host.Outcome.next.inj (ho.trans (reply_eq_answered _ _ _))
    exact ⟨.ok, fields, by simp, by simp, fun notOk => absurd rfl notOk⟩
  | authError fields =>
    obtain rfl := Host.Outcome.next.inj (ho.trans (reply_eq_answered _ _ _))
    exact ⟨.authError, fields, rfl, fun _ => rfl, fun _ notAuth => absurd rfl notAuth⟩
  | @noWrite st notAuth fields =>
    obtain rfl := Host.Outcome.next.inj (ho.trans (reply_eq_answered _ _ _))
    exact ⟨st, fields, rfl, fun isAuth => absurd isAuth notAuth, fun _ _ => rfl⟩

theorem execMsplit_preciseAnswer (payload : Bytes) (s : State) : PreciseAnswer s (execMsplit payload s) := by
  unfold execMsplit
  cases split payload with
  | none => exact .noWrite (by simp) _
  | some segs => exact .ok .keep _

theorem execIpwrap_preciseAnswer (hdr payload : Bytes) (s : State) : PreciseAnswer s (execIpwrap hdr payload s) := by
  unfold execIpwrap
  refine .ite (.noWrite (by simp) _) ?_
  cases headerOperand hdr with
  | none => exact .noWrite (by simp) _
  | some h => exact .ite (.noWrite (by simp) _) (.ite (.noWrite (by simp) _) (.ok .keep _))

/-- R162, R232: the key is installed with OK, since a connect frame is no multicommand frame. -/
theorem execIpunwrap_preciseAnswer {s : State} (hc : configWf s.cfg = true) (wire : Bytes) :
    PreciseAnswer s (execIpunwrap wire s) := by
  obtain ⟨u, st, fields, he, h⟩ := execIpunwrap_cases wire s
  rw [he]
  rcases h with ⟨rfl, notAuth⟩ | ⟨-, -, -, rfl, rfl⟩ | ⟨-, -, -, -, rfl, installOk⟩
  · exact .noWrite notAuth fields
  · exact .authError fields
  · rw [installOk (cmdConnect_ne_cmdMulticommand hc)]
    exact .ok (.install _) fields

/-- R200, R203, R121. -/
theorem exec_preciseAnswer_or_refused {s : State} (hc : configWf s.cfg = true) (i : Instr) :
    PreciseAnswer s (exec i s) ∨
    ∃ arrived, i = .feed arrived ∧ s.overCapacity arrived.length = true ∧ exec i s = .refused .bufferCapacity := by
  have error {st : Status} (notAuth : st ≠ .authError) : PreciseAnswer s (reply s st []) := .noWrite notAuth []
  cases i with
  | feed arrived =>
    cases h : s.overCapacity arrived.length with
    | false =>
      left
      rw [exec, execFeed_eq_reply h]
      exact .ok (.setBuf _) _
    | true => exact .inr ⟨arrived, rfl, h, execFeed_eq_refused h⟩
  | nop | ckv _ | ckg _ | stat => exact .inl (.ok .keep _)
  | flush => exact .inl (.ok (.setBuf []) _)
  | disc => exact .inl (.ok .disconnect _)
  | ksched _ => exact .inl (.ite (error (by simp)) (.ok .keep _))
  | enc _ _ | dec _ _ => exact .inl (.ite (error (by simp)) (.ite (error (by simp)) (.ok .keep _)))
  | ipwrap hdr payload => exact .inl (execIpwrap_preciseAnswer hdr payload s)
  | ipunwrap wire => exact .inl (execIpunwrap_preciseAnswer hc wire)
  | hsconn => exact .inl (.ite (error (by simp)) (.ite (error (by simp)) (.ok .awaitAck _)))
  | msplit payload => exact .inl (execMsplit_preciseAnswer payload s)

theorem replyUndecoded_preciseAnswer (s : State) (e : DecodeError) : PreciseAnswer s (replyUndecoded s e) :=
  .noWrite (by cases e <;> simp [decodeErrorStatus]) []

/-- Also of a packet that is no command. -/
theorem runPacket_preciseAnswer_or_refused {s : State} (hc : configWf s.cfg = true) (packet : Bytes) :
    PreciseAnswer s (runPacket packet s) ∨
    ∃ arrived, decode packet = .ok (.feed arrived) ∧ s.overCapacity arrived.length = true ∧
      runPacket packet s = .refused .bufferCapacity := by
  cases hd : decode packet with
  | error e =>
    rw [runPacket_of_decode_error hd]
    exact .inl (replyUndecoded_preciseAnswer s e)
  | ok i =>
    rw [runPacket_of_decode_ok hd]
    rcases exec_preciseAnswer_or_refused hc i with answers | ⟨arrived, rfl, past, refused⟩
    · exact .inl answers
    · exact .inr ⟨arrived, rfl, past, refused⟩

/-- R121: past a finite BUF_CAP. -/
theorem overCapacity_eq_true_iff (s : State) (n : Nat) :
    s.overCapacity n = true ↔ ∃ cap, s.cfg.bufCap = some cap ∧ cap < s.buf.length + n := by
  rw [← Bool.not_eq_false, overCapacity_eq_false_iff]
  push Not
  rfl

/-- Settles O9: a packet gets its one reply, or it is the FEED that BUF_CAP refuses. -/
theorem everyCommandAnswersOnce : Obligations.EveryCommandAnswersOnce := by
  intro s packet rest hc hp
  rw [step_of_port_command hc hp]
  rcases runPacket_preciseAnswer_or_refused (s := s.setPort rest) hc packet with answers | ⟨arrived, hd, past, refused⟩
  · exact .inl answers.exists_next
  · obtain ⟨cap, finite, exceeds⟩ := (overCapacity_eq_true_iff _ _).mp past
    exact .inr ⟨arrived, cap, hd, finite, exceeds, refused⟩

/-- Settles O20: a packet that is answered is answered precisely. -/
theorem errorStatusesArePrecise : Obligations.ErrorStatusesArePrecise := by
  intro s t packet rest hp h
  have hc := configWf_of_step_next h
  rw [step_of_port_command hc hp] at h
  rcases runPacket_preciseAnswer_or_refused (s := s.setPort rest) hc packet with answers | ⟨_, -, -, refused⟩
  · rw [h] at answers
    exact answers.next_eq
  · rw [h] at refused
    cases refused

end Sys2Proof.Machine
end

section
/-! The framer wedge (R234): a wedged buffer is at rest with any bytes behind it, so only what empties the buffer ends it; and
the reset that does (R230). -/

namespace Sys2Proof.Machine

/-- R112, R234: the candidate frame and the 37-byte frame fail, and the candidate length is one the scan waits for. -/
theorem Wedged.atRest {b : Bytes} (h : Wedged b) : AtRest b := by
  obtain ⟨low, -, high, candFails, legacyFails⟩ := h
  refine atRest_iff.mpr ⟨?_, fun _ => ⟨legacyFails, low, high⟩⟩
  rintro ⟨-, -, valid⟩
  exact absurd valid (Bool.eq_false_iff.mp candFails)

/-- R234: all that wedges a buffer lies in its first `cand b` bytes. -/
theorem Wedged.append {b : Bytes} (h : Wedged b) (x : Bytes) : Wedged (b ++ x) := by
  obtain ⟨low, whole, high, candFails, legacyFails⟩ := h
  have hcand : cand (b ++ x) = cand b := cand_append (by omega) x
  constructor
  case candLow => rwa [hcand]
  case candWhole =>
    rw [hcand, List.length_append]
    omega
  case candHigh => rwa [hcand]
  case candFails => rwa [hcand, List.take_append_of_le_length whole]
  case legacyFails => rwa [List.take_append_of_le_length (low.trans whole)]

/-- R234: the scan of a wedged buffer and the bytes behind it emits nothing and removes nothing. -/
theorem Wedged.scan_append {b : Bytes} (h : Wedged b) (x : Bytes) : scan (b ++ x) = ([], b ++ x) :=
  scan_of_stop (h.append x).atRest

/-- Settles O34: FEED answers the frames of a scan that stops at once. -/
theorem wedgedFeedEmitsNothing : Obligations.WedgedFeedEmitsNothing := by
  intro s arrived wedged fits
  refine ⟨?_, wedged.append arrived⟩
  rw [(feedResult arrived).1 s fits, wedged.scan_append]
  rfl

/-- Settles O35: of the writes a step can make, FEED's keeps the wedge, and FLUSH, DISC and reset alone make another to the
buffer; the packets of FLUSH and DISC are their encodings. -/
theorem wedgeLastsUntilFlushed : Obligations.WedgeLastsUntilFlushed := by
  intro s t wedged h
  rcases step_next_cases h with ⟨-, rfl⟩ | ⟨rest, hp, rfl⟩ | ⟨_, rest, e, -, -, rfl⟩ |
    ⟨packet, rest, i, w, response, hp, hd, hw, rfl⟩
  · exact .inl wedged
  · exact .inr ⟨rest, .inr (.inr hp)⟩
  · exact .inl wedged
  · obtain ⟨-, rfl⟩ := encodeDecodeRoundTrip packet i hd
    cases hw with
    | @feed arrived =>
      left
      show Wedged (scan (s.buf ++ arrived)).2
      rw [wedged.scan_append]
      exact wedged.append arrived
    | flush => exact .inr ⟨rest, .inl hp⟩
    | disc => exact .inr ⟨rest, .inr (.inl hp)⟩
    | keep | hsconn | fail | install => exact .inl wedged

/-- Settles O7: the reset state by its fields, and the reset input's step from any state within the spec. -/
theorem resetLeavesSpecifiedState : Obligations.ResetLeavesSpecifiedState :=
  ⟨fun _ => ⟨rfl, rfl, rfl, rfl⟩, fun _ _ hc hp => step_of_port_resetInput hc hp⟩

end Sys2Proof.Machine
end
